-- ==== Sys2Proof/Word.lean ====
section
/-! DEFINITION. The word types of CORE: the byte (00_scope.md R11) and the buffer handle (R7). -/

namespace Sys2Proof

/-- A byte: 8 bits, bit 7 the most significant (00_scope.md R11). -/
abbrev Byte := BitVec 8

/-- A buffer handle (00_scope.md R7: OPEN, any type with decidable equality). The model numbers the
buffers; the absence of a handle is `Option.none`, never a number (92_eei_decisions.md D32; log 2). -/
abbrev Handle := Nat

end Sys2Proof
end

