-- ==== Sys2Proof/Config.lean ====
section
/-! DEFINITION. What an implementation fixes (00_scope.md R7, 92_eei_decisions.md section 5), what the host's formatters
answer, and the two free values. -/

namespace Sys2Proof

/-- The parameters of 00_scope.md R7 and the switches of 92_eei_decisions.md section 5. Every State carries
them unchanged, so that a statement about every state quantifies over them (log 1). -/
structure Params where
  /-- `N_BEACONS`, OPEN, at least 1 (R7, D23). -/
  nBeacons : Nat
  /-- How many buffers the host has: the host's business (20_memory.md R60); a handle is real when it is below. -/
  nBuffers : Nat
  /-- `MSG_CAPACITY`, OPEN, at least 1 (R7, D27). -/
  msgCapacity : Nat
  /-- `EXTRA_PUNCT`, a finite map from character codes to Symbol bytes (R7, R8, D21). -/
  extraPunct : List (Byte × Byte)
  /-- `RESET_ENABLED` (R7, D16). -/
  resetEnabled : Bool
  /-- `BOUNDARY_EXTRA_TICK` (D7): a byte boundary reached by an expiring counter costs one more tick (log 13). -/
  boundaryExtraTick : Bool
  /-- `END_CLEARS_PWR` (D12; log 14). -/
  endClearsPwr : Bool
  /-- `DISABLE_CLEARS_NEXT` (D17; log 15). -/
  disableClearsNext : Bool
  /-- `TICK_PERIOD`, OPEN, nominal 100 ms (R7, D28); no rule depends on it. DESIGN CHOICE (log 1): a whole number of
  milliseconds, 0 admitted. -/
  tickPeriodMs : Nat
  /-- `KEY_ACTIVE_LEVEL`, OPEN: the level of the `key` pin when the carrier is on (R7, D20); no rule depends on it.
  DESIGN CHOICE (log 1): one of two levels. -/
  keyActiveLevel : Bool
  deriving DecidableEq, Repr

/-- The parameters at State.reset: the spec's defaults where it gives one (`EXTRA_PUNCT`, `RESET_ENABLED`, the
three switches, the nominal tick), else a DESIGN CHOICE of log 1 (the three sizes, the key level). -/
def Params.chosen : Params where
  nBeacons := 2
  nBuffers := 16
  msgCapacity := 256
  extraPunct := [(0x2D#8, 0xA1#8)]
  resetEnabled := true
  boundaryExtraTick := false
  endClearsPwr := false
  disableClearsNext := false
  tickPeriodMs := 100
  keyActiveLevel := true

/-- The document's taxonomy of encode-time errors (41_message_encoder.md R202, R206). -/
inductive EncodeErrorKind where
  | malformedDirective
  | outOfRangeDigit
  | powerMode
  | unencodable
  | bufferTooSmall
  deriving DecidableEq, Repr

/-- The text a sensor formatter gives for a channel and the length it promises not to exceed (log 19, log 28)
(41_message_encoder.md R207). -/
structure SensorText where
  text : List Byte
  worstCase : Nat
  deriving DecidableEq, Repr, Inhabited

/-- What the four sensor formatters answer during one call of `encodeMessage` (41 R207): 16 analog channels (R208)
and 8 temperature channels (R209). Input data of the host's environment (log 19). -/
structure Sensors where
  analog : Vector SensorText 16
  temperature : Vector SensorText 8
  deriving DecidableEq, Repr

/-- A non-empty text of 8-bit characters (41_message_encoder.md R202: "a non-empty text"). -/
structure DiagnosticText where
  first : Byte
  others : List Byte
  deriving DecidableEq, Repr, Inhabited

/-- The wording of a diagnostic, for an error kind at a source position of a call with this capacity, source text and
formatter answers: a FREE VALUE, since the spec describes the texts and does not give them (41 R202;
93_implementation_defined.md U14: any value; log 18). -/
opaque Config.diagnosticText : EncodeErrorKind → Nat → Nat → List Byte → Sensors → DiagnosticText

/-- The text that stands for a sensor text longer than its promise, in a call with this capacity, source text and
formatter answers, at a source position: a FREE VALUE, since the spec does not say what happens then (41 R207).
DESIGN CHOICE, unsafe (log 28). -/
opaque Config.overlongText : Nat → List Byte → Sensors → Nat → List Byte

end Sys2Proof
end

