-- ==== Sys2Proof/Syntax.lean ====
section
/-! DEFINITION. The byte code of a Compiled Message: one constructor per row of spec/opcode_table.json
(30_encoding.md R91, R104), named after its mnemonic and, where a mnemonic has several rows, the row's match value.

Operands are the spec's own (R92, R95): `m` the power mode `v[1:0]`; `d` the whole duration code `v[3:0]`, of which a
row admits a block (Instr.wf); `b` the significant bits `v[n-1:0]` of a Symbol of `n` elements; `x` the bits an unknown
Control Byte leaves ignored, kept so that no bit of a byte is lost. -/

namespace Sys2Proof

inductive Instr where
  /-- `SETPWR`, row 000000mm (rule R250). -/
  | setpwr (m : BitVec 2)
  /-- `UNK`, row 000001xx (rule R258). -/
  | unk04 (x : BitVec 2)
  /-- `UNK`, row 00001xxx (rule R258). -/
  | unk08 (x : BitVec 3)
  /-- `HOLDON`, row 00010000 (rule R253). -/
  | holdOn10
  /-- `HOLDON`, row 00010001 (rule R251). -/
  | holdOn11 (d : BitVec 4)
  /-- `HOLDON`, row 0001001d (rule R251). -/
  | holdOn12 (d : BitVec 4)
  /-- `HOLDON`, row 000101dd (rule R251). -/
  | holdOn14 (d : BitVec 4)
  /-- `HOLDON`, row 00011ddd (rule R251). -/
  | holdOn18 (d : BitVec 4)
  /-- `HOLDOFF`, row 00100000 (rule R253). -/
  | holdOff20
  /-- `HOLDOFF`, row 00100001 (rule R252). -/
  | holdOff21 (d : BitVec 4)
  /-- `HOLDOFF`, row 0010001d (rule R252). -/
  | holdOff22 (d : BitVec 4)
  /-- `HOLDOFF`, row 001001dd (rule R252). -/
  | holdOff24 (d : BitVec 4)
  /-- `HOLDOFF`, row 00101ddd (rule R252). -/
  | holdOff28 (d : BitVec 4)
  /-- `UNK`, row 0011xxxx (rule R258). -/
  | unk30 (x : BitVec 4)
  /-- `UNK`, row 010xxxxx (rule R258). -/
  | unk40 (x : BitVec 5)
  /-- `UNK`, row 0110xxxx (rule R258). -/
  | unk60 (x : BitVec 4)
  /-- `UNK`, row 01110xxx (rule R258). -/
  | unk70 (x : BitVec 3)
  /-- `UNK`, row 011110xx (rule R258). -/
  | unk78 (x : BitVec 2)
  /-- `UNK`, row 0111110x (rule R258). -/
  | unk7C (x : BitVec 1)
  /-- `WSPACE`, row 01111110 (rule R254). -/
  | wspace
  /-- `END`, row 01111111 (rule R257). -/
  | endMsg
  /-- `SYM6`, row 10bbbbbb (rule R281). -/
  | sym6 (b : BitVec 6)
  /-- `SYM5`, row 110bbbbb (rule R281). -/
  | sym5 (b : BitVec 5)
  /-- `SYM4`, row 1110bbbb (rule R281). -/
  | sym4 (b : BitVec 4)
  /-- `SYM3`, row 11110bbb (rule R281). -/
  | sym3 (b : BitVec 3)
  /-- `SYM2`, row 111110bb (rule R281). -/
  | sym2 (b : BitVec 2)
  /-- `SYM1`, row 1111110b (rule R281). -/
  | sym1 (b : BitVec 1)
  /-- `RSVSYM0`, row 11111110 (rule R286). -/
  | rsvsym0
  /-- `RSVSYM1`, row 11111111 (rule R286). -/
  | rsvsym1
  deriving DecidableEq, Repr

end Sys2Proof
end

