-- ==== Sys2Proof/WellFormed.lean ====
section
/-! DEFINITION. Which terms are instructions, and which parameters are admissible. -/

namespace Sys2Proof

/-- A duration code lies in the block of its opcode-table row (30_encoding.md R104: the rows of `HOLDON d` and
`HOLDOFF d` split 1 .. 15 into power-of-two blocks). Every other operand fills its field exactly. -/
def Instr.wf : Instr → Bool
  | .holdOn11 d | .holdOff21 d => d == 1#4
  | .holdOn12 d | .holdOff22 d => decide (2#4 ≤ d ∧ d ≤ 3#4)
  | .holdOn14 d | .holdOff24 d => decide (4#4 ≤ d ∧ d ≤ 7#4)
  | .holdOn18 d | .holdOff28 d => decide (8#4 ≤ d)
  | .setpwr _ | .unk04 _ | .unk08 _ | .holdOn10 | .holdOff20 | .unk30 _ | .unk40 _ | .unk60 _ | .unk70 _
  | .unk78 _ | .unk7C _ | .wspace | .endMsg | .sym6 _ | .sym5 _ | .sym4 _ | .sym3 _ | .sym2 _ | .sym1 _
  | .rsvsym0 | .rsvsym1 => true

/-- A character code that `EXTRA_PUNCT` may map (00_scope.md R8): in 0x01 .. 0xFF, no digit, no letter of either
case, none of `= ? / . ,`, not the space and not `!`. -/
def Params.extraKeyOk (c : Byte) : Bool :=
  decide (c ≠ 0x00#8) && !decide (0x30#8 ≤ c ∧ c ≤ 0x39#8) && !decide (0x41#8 ≤ c ∧ c ≤ 0x5A#8) &&
    !decide (0x61#8 ≤ c ∧ c ≤ 0x7A#8) && !([0x3D#8, 0x3F#8, 0x2F#8, 0x2E#8, 0x2C#8, 0x20#8, 0x21#8].contains c)

/-- A value that `EXTRA_PUNCT` may give (00_scope.md R8): a Symbol byte, 0x80 .. 0xFD. -/
def Params.extraValueOk (v : Byte) : Bool := decide (0x80#8 ≤ v ∧ v ≤ 0xFD#8)

/-- The constraints of 00_scope.md R7 and R8: at least one beacon, at least one byte per buffer, an admissible
`EXTRA_PUNCT`. -/
def Params.wf (p : Params) : Bool :=
  decide (1 ≤ p.nBeacons) && decide (1 ≤ p.msgCapacity) &&
    p.extraPunct.all (fun e => Params.extraKeyOk e.1 && Params.extraValueOk e.2)

/-- The parameters for which the numbered files of spec/ are written: the three switches at their defaults
(92_eei_decisions.md section 5). -/
def Params.asSpec (p : Params) : Bool := !p.boundaryExtraTick && !p.endClearsPwr && !p.disableClearsNext

end Sys2Proof
end

