-- ==== Sys2Proof/Decode.lean ====
section
/-! DEFINITION. The decoder, the encoder and the opcode table (30_encoding.md R90 to R101, R104). -/

namespace Sys2Proof

/-- One row of spec/opcode_table.json: a byte belongs to it when its bits under `mask` are `value` (R104). -/
structure OpRow where
  mnemonic : String
  value : Byte
  mask : Byte
  deriving DecidableEq, Repr

/-- A byte belongs to a row (R104: `(v & mask) == match`). -/
def fits (v value mask : Byte) : Bool := v &&& mask == value

/-- The 29 rows of spec/opcode_table.json, in its order. -/
def opcodeTable : List OpRow := [
  ⟨"SETPWR", 0x00#8, 0xFC#8⟩,
  ⟨"UNK", 0x04#8, 0xFC#8⟩,
  ⟨"UNK", 0x08#8, 0xF8#8⟩,
  ⟨"HOLDON", 0x10#8, 0xFF#8⟩,
  ⟨"HOLDON", 0x11#8, 0xFF#8⟩,
  ⟨"HOLDON", 0x12#8, 0xFE#8⟩,
  ⟨"HOLDON", 0x14#8, 0xFC#8⟩,
  ⟨"HOLDON", 0x18#8, 0xF8#8⟩,
  ⟨"HOLDOFF", 0x20#8, 0xFF#8⟩,
  ⟨"HOLDOFF", 0x21#8, 0xFF#8⟩,
  ⟨"HOLDOFF", 0x22#8, 0xFE#8⟩,
  ⟨"HOLDOFF", 0x24#8, 0xFC#8⟩,
  ⟨"HOLDOFF", 0x28#8, 0xF8#8⟩,
  ⟨"UNK", 0x30#8, 0xF0#8⟩,
  ⟨"UNK", 0x40#8, 0xE0#8⟩,
  ⟨"UNK", 0x60#8, 0xF0#8⟩,
  ⟨"UNK", 0x70#8, 0xF8#8⟩,
  ⟨"UNK", 0x78#8, 0xFC#8⟩,
  ⟨"UNK", 0x7C#8, 0xFE#8⟩,
  ⟨"WSPACE", 0x7E#8, 0xFF#8⟩,
  ⟨"END", 0x7F#8, 0xFF#8⟩,
  ⟨"SYM6", 0x80#8, 0xC0#8⟩,
  ⟨"SYM5", 0xC0#8, 0xE0#8⟩,
  ⟨"SYM4", 0xE0#8, 0xF0#8⟩,
  ⟨"SYM3", 0xF0#8, 0xF8#8⟩,
  ⟨"SYM2", 0xF8#8, 0xFC#8⟩,
  ⟨"SYM1", 0xFC#8, 0xFE#8⟩,
  ⟨"RSVSYM0", 0xFE#8, 0xFF#8⟩,
  ⟨"RSVSYM1", 0xFF#8, 0xFF#8⟩]

/-- The table's row of each constructor. -/
def Instr.row : Instr → OpRow
  | .setpwr _ => ⟨"SETPWR", 0x00#8, 0xFC#8⟩
  | .unk04 _ => ⟨"UNK", 0x04#8, 0xFC#8⟩
  | .unk08 _ => ⟨"UNK", 0x08#8, 0xF8#8⟩
  | .holdOn10 => ⟨"HOLDON", 0x10#8, 0xFF#8⟩
  | .holdOn11 _ => ⟨"HOLDON", 0x11#8, 0xFF#8⟩
  | .holdOn12 _ => ⟨"HOLDON", 0x12#8, 0xFE#8⟩
  | .holdOn14 _ => ⟨"HOLDON", 0x14#8, 0xFC#8⟩
  | .holdOn18 _ => ⟨"HOLDON", 0x18#8, 0xF8#8⟩
  | .holdOff20 => ⟨"HOLDOFF", 0x20#8, 0xFF#8⟩
  | .holdOff21 _ => ⟨"HOLDOFF", 0x21#8, 0xFF#8⟩
  | .holdOff22 _ => ⟨"HOLDOFF", 0x22#8, 0xFE#8⟩
  | .holdOff24 _ => ⟨"HOLDOFF", 0x24#8, 0xFC#8⟩
  | .holdOff28 _ => ⟨"HOLDOFF", 0x28#8, 0xF8#8⟩
  | .unk30 _ => ⟨"UNK", 0x30#8, 0xF0#8⟩
  | .unk40 _ => ⟨"UNK", 0x40#8, 0xE0#8⟩
  | .unk60 _ => ⟨"UNK", 0x60#8, 0xF0#8⟩
  | .unk70 _ => ⟨"UNK", 0x70#8, 0xF8#8⟩
  | .unk78 _ => ⟨"UNK", 0x78#8, 0xFC#8⟩
  | .unk7C _ => ⟨"UNK", 0x7C#8, 0xFE#8⟩
  | .wspace => ⟨"WSPACE", 0x7E#8, 0xFF#8⟩
  | .endMsg => ⟨"END", 0x7F#8, 0xFF#8⟩
  | .sym6 _ => ⟨"SYM6", 0x80#8, 0xC0#8⟩
  | .sym5 _ => ⟨"SYM5", 0xC0#8, 0xE0#8⟩
  | .sym4 _ => ⟨"SYM4", 0xE0#8, 0xF0#8⟩
  | .sym3 _ => ⟨"SYM3", 0xF0#8, 0xF8#8⟩
  | .sym2 _ => ⟨"SYM2", 0xF8#8, 0xFC#8⟩
  | .sym1 _ => ⟨"SYM1", 0xFC#8, 0xFE#8⟩
  | .rsvsym0 => ⟨"RSVSYM0", 0xFE#8, 0xFF#8⟩
  | .rsvsym1 => ⟨"RSVSYM1", 0xFF#8, 0xFF#8⟩

/-- The instruction a byte is (R91): the row it belongs to, the operand fields taken out. Every one of the 256 values
has a defined effect (R101), so nothing is rejected; RSVSYM1 is the row of the one value left, 0xFF. -/
def decodeByte (v : Byte) : Instr :=
  if fits v 0x00#8 0xFC#8 then .setpwr (v.extractLsb' 0 2)
  else if fits v 0x04#8 0xFC#8 then .unk04 (v.extractLsb' 0 2)
  else if fits v 0x08#8 0xF8#8 then .unk08 (v.extractLsb' 0 3)
  else if fits v 0x10#8 0xFF#8 then .holdOn10
  else if fits v 0x11#8 0xFF#8 then .holdOn11 (v.extractLsb' 0 4)
  else if fits v 0x12#8 0xFE#8 then .holdOn12 (v.extractLsb' 0 4)
  else if fits v 0x14#8 0xFC#8 then .holdOn14 (v.extractLsb' 0 4)
  else if fits v 0x18#8 0xF8#8 then .holdOn18 (v.extractLsb' 0 4)
  else if fits v 0x20#8 0xFF#8 then .holdOff20
  else if fits v 0x21#8 0xFF#8 then .holdOff21 (v.extractLsb' 0 4)
  else if fits v 0x22#8 0xFE#8 then .holdOff22 (v.extractLsb' 0 4)
  else if fits v 0x24#8 0xFC#8 then .holdOff24 (v.extractLsb' 0 4)
  else if fits v 0x28#8 0xF8#8 then .holdOff28 (v.extractLsb' 0 4)
  else if fits v 0x30#8 0xF0#8 then .unk30 (v.extractLsb' 0 4)
  else if fits v 0x40#8 0xE0#8 then .unk40 (v.extractLsb' 0 5)
  else if fits v 0x60#8 0xF0#8 then .unk60 (v.extractLsb' 0 4)
  else if fits v 0x70#8 0xF8#8 then .unk70 (v.extractLsb' 0 3)
  else if fits v 0x78#8 0xFC#8 then .unk78 (v.extractLsb' 0 2)
  else if fits v 0x7C#8 0xFE#8 then .unk7C (v.extractLsb' 0 1)
  else if fits v 0x7E#8 0xFF#8 then .wspace
  else if fits v 0x7F#8 0xFF#8 then .endMsg
  else if fits v 0x80#8 0xC0#8 then .sym6 (v.extractLsb' 0 6)
  else if fits v 0xC0#8 0xE0#8 then .sym5 (v.extractLsb' 0 5)
  else if fits v 0xE0#8 0xF0#8 then .sym4 (v.extractLsb' 0 4)
  else if fits v 0xF0#8 0xF8#8 then .sym3 (v.extractLsb' 0 3)
  else if fits v 0xF8#8 0xFC#8 then .sym2 (v.extractLsb' 0 2)
  else if fits v 0xFC#8 0xFE#8 then .sym1 (v.extractLsb' 0 1)
  else if fits v 0xFE#8 0xFF#8 then .rsvsym0
  else .rsvsym1

/-- Why a run of bytes is no instruction. Raised by `decode` only; safe. -/
inductive DecodeError where
  /-- There is no byte to decode. -/
  | noByte
  /-- Bytes are left over after the one byte of an instruction (R90: every instruction is exactly one byte). -/
  | trailingBytes
  deriving DecidableEq, Repr

/-- Reads one instruction from a run of bytes; answers it and the bytes after it. -/
def decode : List Byte → Except DecodeError (Instr × List Byte)
  | [] => .error .noByte
  | v :: vs => .ok (decodeByte v, vs)

/-- Reads a run of bytes that is to be exactly one instruction. -/
def decodeOne (vs : List Byte) : Except DecodeError Instr :=
  match decode vs with
  | .ok (i, []) => .ok i
  | .ok (_, _ :: _) => .error .trailingBytes
  | .error e => .error e

/-- The byte of an instruction, written from the encodings of 30_encoding.md R92, R95 (fixed bits, then the field). -/
def encode : Instr → Byte
  | .setpwr m => 0b000000#6 ++ m
  | .unk04 x => 0b000001#6 ++ x
  | .unk08 x => 0b00001#5 ++ x
  | .holdOn10 => 0b00010000#8
  | .holdOn11 d => 0b0001#4 ++ d
  | .holdOn12 d => 0b0001#4 ++ d
  | .holdOn14 d => 0b0001#4 ++ d
  | .holdOn18 d => 0b0001#4 ++ d
  | .holdOff20 => 0b00100000#8
  | .holdOff21 d => 0b0010#4 ++ d
  | .holdOff22 d => 0b0010#4 ++ d
  | .holdOff24 d => 0b0010#4 ++ d
  | .holdOff28 d => 0b0010#4 ++ d
  | .unk30 x => 0b0011#4 ++ x
  | .unk40 x => 0b010#3 ++ x
  | .unk60 x => 0b0110#4 ++ x
  | .unk70 x => 0b01110#5 ++ x
  | .unk78 x => 0b011110#6 ++ x
  | .unk7C x => 0b0111110#7 ++ x
  | .wspace => 0b01111110#8
  | .endMsg => 0b01111111#8
  | .sym6 b => 0b10#2 ++ b
  | .sym5 b => 0b110#3 ++ b
  | .sym4 b => 0b1110#4 ++ b
  | .sym3 b => 0b11110#5 ++ b
  | .sym2 b => 0b111110#6 ++ b
  | .sym1 b => 0b1111110#7 ++ b
  | .rsvsym0 => 0b11111110#8
  | .rsvsym1 => 0b11111111#8

/-- The bytes of `nbits` bits of `w`, the least significant first: how the table numbers an instruction's bits. -/
def tableBytes (nbits w : Nat) : List Byte :=
  (List.range ((nbits + 7) / 8)).map fun j => BitVec.ofNat 8 (w >>> (8 * j))

/-- The instruction the decoder reads from the bits `w` of an opcode-table row. -/
def decodeTableWord (nbits w : Nat) : Option Instr :=
  match decodeOne (tableBytes nbits w) with
  | .ok i => some i
  | .error _ => none

end Sys2Proof
end

