-- ==== Sys2Proof/Machine/State.lean ====
section
/-! DEFINITION. The state of CORE and of the environment that drives it, as plain data (10_state.md; 00_scope.md R10). -/

namespace Sys2Proof.Machine

/-- One Beacon Transmitter: the fields of 10_state.md section 2. `key_n` is not stored (R36; `Beacon.keyN`). -/
structure Beacon where
  /-- The buffer being transmitted, or none (R23). -/
  cur : Option Handle
  /-- Index of the byte being transmitted; with `cur` the program counter (R24, R38). -/
  bytePos : Nat
  /-- 7 at a byte boundary, else the number of elements of the Symbol not yet keyed (R25). -/
  bitPos : BitVec 3
  /-- The elements not yet keyed, left-aligned, 1 a dash (R26). -/
  shreg : Byte
  /-- Ticks left of a hold or of the inter-word space (R27). -/
  cmdPause : BitVec 8
  /-- Ticks left with the key on in this element (R28). -/
  onPause : BitVec 2
  /-- Ticks left with the key off after an element (R29). -/
  offPause : BitVec 2
  /-- No message is active (R31). -/
  idle : Bool
  /-- The transmitter takes part in ticking (R32). -/
  enabled : Bool
  /-- The pending slot (R33). -/
  next : Option Handle
  /-- The key/carrier line, true for carrier on (R35). -/
  key : Bool
  /-- The power-mode output (R37). -/
  pwr : BitVec 2
  deriving DecidableEq, Repr

/-- A transmitter right after reset (70_reset_and_hazards.md R371). -/
def Beacon.reset (p : Params) : Beacon where
  cur := none
  bytePos := 0
  bitPos := 7#3
  shreg := 0#8
  cmdPause := 0#8
  onPause := 0#2
  offPause := 0#2
  idle := true
  enabled := p.resetEnabled
  next := none
  key := false
  pwr := 0#2

/-- Message memory: the bytes that differ from what an unlisted address reads as, by rising address
(20_memory.md R60; Ops.lean; log 2, log 3). -/
abbrev Memory := List Host.Cell

/-- Who moves next (log 4): the agents of 00_scope.md R10 and the phases of a tick (42 R240). -/
inductive Turn where
  /-- Between operations: the host, or else the tick source (45_array_manager.md R321). -/
  | host
  /-- Inside a cycle: beacon `k` is about to be ticked, phases P0 to P2. -/
  | tick (k : Nat)
  /-- Inside a cycle: beacon `k` is in the interpret phase P3, at a byte boundary. -/
  | interpret (k : Nat)
  deriving DecidableEq, Repr

/-- What a failed `encodeMessage` raises (41 R202): its kind and the source position. -/
structure EncodeError where
  kind : EncodeErrorKind
  pos : Nat
  deriving DecidableEq, Repr

/-- The diagnostic of a failed `encodeMessage` (41 R202): what it raised, and the call it came from, whose capacity and
characters its text may name (R205). -/
structure Diagnostic where
  error : EncodeError
  outCapacity : Nat
  text : List Byte
  sensors : Sensors
  deriving DecidableEq, Repr

/-- An operation of the tick source or the host (00_scope.md R9, R10; 70_reset_and_hazards.md R390; log 5). -/
inductive Event where
  /-- The tick source calls `cycle()` (45 R321). -/
  | cycle
  /-- `setNextMessage(i, h)` (44 R301, 45 R323). -/
  | setNextMessage (i : Nat) (h : Option Handle)
  /-- `isDone(i)` (44 R302). -/
  | isDone (i : Nat)
  /-- `setEnabled(i, on)` (44 R303, R304). -/
  | setEnabled (i : Nat) (on : Bool)
  /-- `handoff(i, h)` (45 R324). -/
  | handoff (i : Nat) (h : Option Handle)
  /-- The host writes a byte of message memory (20 R61). -/
  | writeByte (h : Handle) (pos : Nat) (v : Byte)
  /-- `encodeMessage(outBuffer, outCapacity, sourceText)` (41 R200). -/
  | encodeMessage (h : Handle) (outCapacity : Nat) (text : List Byte) (sensors : Sensors)
  /-- `getLastEncodeError()` (41 R203). -/
  | getLastEncodeError
  /-- The Character Encoder's input is `c` (40 R120, R177). -/
  | encodeChar (c : Byte)
  /-- Reset is asserted (70 R373, R390). -/
  | reset
  deriving DecidableEq, Repr

/-- What an operation gives back to the host. -/
inductive Reply where
  /-- The bit of `isDone` (44 R302). -/
  | done (b : Bool)
  /-- The bit of `handoff` (45 R324). -/
  | accepted (b : Bool)
  /-- The success of `encodeMessage` (41 R200). -/
  | encoded (b : Bool)
  /-- The text of `getLastEncodeError` (41 R203). -/
  | diagnostic (text : List Byte)
  /-- The byte of `encodeChar` (40 R120). -/
  | symbol (v : Byte)
  deriving DecidableEq, Repr

/-- The whole machine. -/
structure State where
  /-- The parameters (00_scope.md R7); no operation writes them (log 1). -/
  params : Params
  /-- The array B (10_state.md R21, 45_array_manager.md R320). -/
  beacons : List Beacon
  /-- Message memory (20_memory.md R60). -/
  mem : Memory
  /-- The Message Encoder's diagnostic (41_message_encoder.md R203: host software). -/
  diag : Option Diagnostic
  /-- MODEL's own: who moves next (log 4). -/
  turn : Turn
  /-- MODEL's own: operations not yet performed, oldest first (log 5). -/
  events : List Event
  /-- MODEL's own: what the last host operation gave back (log 5). -/
  reply : Option Reply
  /-- MODEL's own: the handles each beacon was given since it was last done (20_memory.md R72; log 7). -/
  loans : List (Nat × Handle)
  deriving DecidableEq, Repr

/-- The machine right after reset, under parameters `p` (70_reset_and_hazards.md R371). -/
def State.resetWith (p : Params) : State where
  params := p
  beacons := List.replicate p.nBeacons (Beacon.reset p)
  mem := []
  diag := none
  turn := .host
  events := []
  reply := none
  loans := []

/-- The machine right after reset (70_reset_and_hazards.md R371), under the parameters of log 1. -/
def State.reset : State := State.resetWith Params.chosen

/-- Faults. CORE has none (60_exceptions.md R340); each of these stops a state that no run reaches (log 21), and
every one is safe. -/
inductive Fault where
  /-- The turn names a beacon the array does not have, or an instruction is to run while no beacon is in its
  interpret phase. Raised by the operations of Ops.lean; safe. -/
  | noActiveBeacon
  /-- The interpret phase finds `cur` none, against the precondition of 42 R245. Raised by the fetch; safe. -/
  | noCurrentMessage
  /-- The fetch goes through a handle of no buffer, which the interface keeps out (44 R301). Raised by the fetch;
  safe. -/
  | noSuchBuffer
  deriving DecidableEq, Repr

/-- Refusals: calls outside the host's interface (93_implementation_defined.md U4, U11; 70 R390: the model has no
transition for a "never" row). All are safe. -/
inductive Refusal where
  /-- An instruction without a meaning, by mnemonic. Raised by no arm of `exec` in this model; safe. -/
  | notModelled (mnemonic : String)
  /-- A beacon index out of range (45 R323). Raised by every per-beacon operation; safe. -/
  | badIndex
  /-- `none` passed where a handle is due (44 R301, D19). Raised by setNextMessage and handoff; safe. -/
  | noHandle
  /-- A handle of no buffer (44 R301). Raised by every operation that takes a handle; safe. -/
  | noSuchBuffer
  /-- A host write outside a buffer (20 R60: offsets 0 .. MSG_CAPACITY - 1). Raised by writeByte; safe. -/
  | badOffset
  /-- The host writes a buffer that is lent to a transmitter (20 R72, 70 R380, U4). Raised by writeByte and
  encodeMessage; safe. -/
  | bufferLent
  /-- One handle given to two beacons at once (20 R72, 70 R388, U4). Raised by setNextMessage and handoff; safe. -/
  | handleShared
  /-- `outCapacity` 0, or above the capacity of the buffer (41 R200, U11). Raised by encodeMessage; safe. -/
  | badCapacity
  deriving DecidableEq, Repr

end Sys2Proof.Machine
end

