-- ==== Sys2Proof/Machine/Ops.lean ====
section
/-! DEFINITION. The named operations over memory, beacons and the turn; the end-of-message reaction, which stands
where a processor would take an exception (60_exceptions.md R345). -/

namespace Sys2Proof.Machine

/-! ## Message memory (20_memory.md) -/

/-- What an unlisted address reads as: 0x7F. The spec gives message memory no reset content (70 R371). DESIGN CHOICE,
unsafe (log 3). -/
def Memory.unlisted : Byte := 0x7F#8

/-- The byte at an address. -/
def Memory.read : Memory → Nat → Byte
  | [], _ => Memory.unlisted
  | c :: m, a => if c.1 = a then c.2 else Memory.read m a

/-- A cell in front of a list, left out when it holds what an unlisted address reads as. -/
def Memory.cell (a : Nat) (v : Byte) (m : Memory) : Memory := if v = Memory.unlisted then m else (a, v) :: m

/-- The memory with the byte at an address replaced, in canonical form. -/
def Memory.write : Memory → Nat → Byte → Memory
  | [], a, v => Memory.cell a v []
  | c :: m, a, v =>
    if a < c.1 then Memory.cell a v (c :: m)
    else if a = c.1 then Memory.cell a v m
    else c :: Memory.write m a v

/-- The memory with consecutive bytes replaced, from an address up. -/
def Memory.writeMany (m : Memory) (a : Nat) : List Byte → Memory
  | [] => m
  | v :: vs => Memory.writeMany (m.write a v) (a + 1) vs

/-- Every listed address is above `lo`-1, the addresses rise strictly, and no cell holds what an unlisted address
reads as. -/
def Memory.wfFrom : Nat → Memory → Bool
  | _, [] => true
  | lo, c :: m => decide (lo ≤ c.1) && decide (c.2 ≠ Memory.unlisted) && Memory.wfFrom (c.1 + 1) m

/-- The canonical form of memory: equal memories are equal lists. -/
def Memory.wf (m : Memory) : Bool := Memory.wfFrom 0 m

/-- Where byte `pos` of buffer `h` lies (20_memory.md R60: an address is a pair; log 2). -/
def cellAddr (p : Params) (h : Handle) (pos : Nat) : Nat := h * p.msgCapacity + pos

/-- `MsgRead(h, pos)` (20_memory.md R66): past the buffer it gives END (0x7F) without touching memory. -/
def msgRead (p : Params) (m : Memory) (h : Handle) (pos : Nat) : Byte :=
  if pos < p.msgCapacity then m.read (cellAddr p h pos) else 0x7F#8

/-- The byte fetch of the interpret phase, `MsgRead(T.cur, T.bytePos)` (20 R62, 42 R245). -/
def Beacon.fetch (p : Params) (m : Memory) (b : Beacon) : Except Fault Byte :=
  match b.cur with
  | none => .error .noCurrentMessage
  | some h => if h < p.nBuffers then .ok (msgRead p m h b.bytePos) else .error .noSuchBuffer

/-! ## One beacon -/

/-- `bytePos <- bytePos + 1; bitPos <- 7` (42 R244, 43 R285). -/
def Beacon.advance (b : Beacon) : Beacon := { b with bytePos := b.bytePos + 1, bitPos := 7#3 }

/-- Adoption (42 R242). -/
def Beacon.adopt (h : Handle) (b : Beacon) : Beacon :=
  { b with cur := some h, next := none, bytePos := 0, bitPos := 7#3, idle := false }

/-- The end-of-message reaction of END, UNK and the reserved Symbols (42 R257, R258; 43 R286; 60 R345):
`key <- 0; idle <- 1; cur <- none`. `pwr` is kept unless the parameter `END_CLEARS_PWR` is set (D12; log 14). -/
def Beacon.endReaction (p : Params) (b : Beacon) : Beacon :=
  { b with key := false, idle := true, cur := none, pwr := if p.endClearsPwr then 0#2 else b.pwr }

/-- The carrier goes to `on` and a countdown of `ticks` starts (42 R251, R252, R254). -/
def Beacon.startHold (on : Bool) (ticks : BitVec 8) (b : Beacon) : Beacon := { b with key := on, cmdPause := ticks }

/-- The carrier goes to `on` and the next byte is due in the same tick (42 R253). -/
def Beacon.zeroHold (on : Bool) (b : Beacon) : Beacon := { b with key := on, bytePos := b.bytePos + 1 }

/-- The power mode becomes `m` and the next byte is due in the same tick (42 R250). -/
def Beacon.setPower (m : BitVec 2) (b : Beacon) : Beacon := { b with pwr := m, bytePos := b.bytePos + 1 }

/-- Ticks of carrier on of an element: 3 for a dash, 1 for a dot (43 R281, R284). -/
def elementTicks (dash : Bool) : BitVec 2 := if dash then 3#2 else 1#2

/-- The first element of a Symbol starts; `rest` holds the others, `count` of them (43 R281). -/
def Beacon.startSymbol (dash : Bool) (rest : Byte) (count : BitVec 3) (b : Beacon) : Beacon :=
  { b with shreg := rest, bitPos := count, key := true, onPause := elementTicks dash }

/-- The next element of a Symbol starts (43 R284). -/
def Beacon.nextElement (b : Beacon) : Beacon :=
  { b with shreg := b.shreg <<< 1, bitPos := b.bitPos - 1#3, key := true, onPause := elementTicks b.shreg.msb }

/-! ## The turn -/

/-- Whose turn it is when beacon `k`'s tick is over: the next beacon's, in index order, or the host's after the last
(45_array_manager.md R321). -/
def State.turnAfter (s : State) (k : Nat) : Turn := if k + 1 < s.beacons.length then .tick (k + 1) else .host

/-- How a byte rule ends (42 R245). -/
inductive ByteEnd where
  /-- `return`: the tick is over. -/
  | ret
  /-- `continue`: the next byte is due in the same tick. -/
  | cont
  deriving DecidableEq, Repr

/-- A byte rule applied to the beacon in its interpret phase (42 R245): the beacon changes by `rule`, and the turn
passes on when the rule ends with `return`. -/
def State.interpretByte (s : State) (rule : Params → Beacon → Beacon) (fin : ByteEnd) :
    Host.Outcome State Fault Refusal :=
  match s.turn with
  | .interpret k =>
    match s.beacons[k]? with
    | some b =>
      .next { s with
        beacons := s.beacons.set k (rule s.params b)
        turn := match fin with
          | .ret => s.turnAfter k
          | .cont => .interpret k }
    | none => .fault .noActiveBeacon
  | _ => .fault .noActiveBeacon

/-- The shared meaning of every byte that ends the message (60 R345). -/
def State.endMessage (s : State) : Host.Outcome State Fault Refusal := s.interpretByte Beacon.endReaction .ret

end Sys2Proof.Machine
end

