-- ==== Sys2Proof/Machine/Operands.lean ====
section
/-! DEFINITION. Operand assembly (30_encoding.md R92, R93, R96; 43_symbol_emission.md R281). -/

namespace Sys2Proof.Machine

/-- The ticks of a hold with duration code `d`: `16 * d`, 0 .. 240 (30 R96). -/
def holdTicks (d : BitVec 4) : BitVec 8 := d.setWidth 8 <<< 4

/-- The ticks of the inter-word space (42 R254). -/
def spaceTicks : BitVec 8 := 5#8

/-- One element of a Morse pattern (00_scope.md R16). -/
inductive Element where
  | dot
  | dash
  deriving DecidableEq, Repr

/-- 0 for a dot, 1 for a dash (30 R92). -/
def Element.bit : Element → Byte
  | .dot => 0#8
  | .dash => 1#8

/-- `len(dot) = 1`, `len(dash) = 3` (43 R287). -/
def Element.len : Element → Nat
  | .dot => 1
  | .dash => 3

/-- The significant bits of a pattern: `sum of bit(e[i]) << (n - i)` (30 R93). -/
def patternBits : List Element → Byte
  | [] => 0#8
  | e :: es => (e.bit <<< es.length) ||| patternBits es

/-- `pack(p)`: the Symbol byte of a pattern of 1 to 6 elements (30 R93). -/
def pack (pat : List Element) : Byte := (0xFF#8 <<< (pat.length + 1)) ||| patternBits pat

/-- The number of leading 1 bits of the `n` upper bits of a byte: the filler length `k` (30 R92). -/
def leadingOnes : Nat → Byte → Nat
  | 0, _ => 0
  | n + 1, v => if v.msb then leadingOnes n (v <<< 1) + 1 else 0

/-- The filler length `k` of a byte (30 R92). -/
def fillerLength (v : Byte) : Nat := leadingOnes 8 v

/-- The pattern of a Symbol byte (30 R93): `n = 7 - k` elements, `e[i] = v[n - i]`. -/
def unpack (v : Byte) : List Element :=
  (List.range (7 - fillerLength v)).reverse.map fun j => if v.getLsbD j then .dash else .dot

/-- The elements after the first of a Symbol of `n` elements, left-aligned, zeros below:
`(v << (k + 2)) & 0xFF` with `k = 7 - n` (43 R281, closed form). -/
def symbolRest {n : Nat} (b : BitVec n) : Byte := b.setWidth 8 <<< (9 - n)

/-- The Symbol byte rule in closed form (43 R281): `b` the `n` significant bits, the first element the most
significant. -/
def Beacon.keySymbol {n : Nat} (b : BitVec n) (t : Beacon) : Beacon :=
  t.startSymbol b.msb (symbolRest b) (BitVec.ofNat 3 (n - 1))

/-- The stripping loop of 43 R281, at most `fuel` shifts: `while s[7] == 1: s <- s << 1; bp <- bp - 1`. -/
def stripFiller : Nat → Byte → BitVec 3 → Byte × BitVec 3
  | 0, s, bp => (s, bp)
  | fuel + 1, s, bp => if s.msb then stripFiller fuel (s <<< 1) (bp - 1#3) else (s, bp)

/-- The Symbol byte rule as the pseudocode of 43 R281 runs it on the whole byte. -/
def Beacon.stripSymbol (v : Byte) (t : Beacon) : Beacon :=
  let sb := stripFiller 8 v 7#3
  let s := sb.1 <<< 1
  t.startSymbol s.msb (s <<< 1) (sb.2 - 1#3)

end Sys2Proof.Machine
end

