-- ==== Sys2Proof/Machine/Control.lean ====
section
/-! DEFINITION. The meanings of the Control Bytes (42_transmitter_tick_and_control_bytes.md R250 to R258). -/

namespace Sys2Proof.Machine

/-- `SETPWR m` (42 R250): `pwr <- m; bytePos <- bytePos + 1; continue`. -/
def execSetpwr (m : BitVec 2) (s : State) : Host.Outcome State Fault Refusal :=
  s.interpretByte (fun _ => Beacon.setPower m) .cont

/-- `UNK`, row 000001xx (42 R258): an immediate end-of-message. -/
def execUnk04 (_x : BitVec 2) (s : State) : Host.Outcome State Fault Refusal :=
  s.endMessage

/-- `UNK`, row 00001xxx (42 R258): an immediate end-of-message. -/
def execUnk08 (_x : BitVec 3) (s : State) : Host.Outcome State Fault Refusal :=
  s.endMessage

/-- `HOLDON 0` (42 R253): `key <- 1; bytePos <- bytePos + 1; continue` (log 10). -/
def execHoldOn10 (s : State) : Host.Outcome State Fault Refusal :=
  s.interpretByte (fun _ => Beacon.zeroHold true) .cont

/-- `HOLDON d`, row 00010001 (42 R251): `key <- 1; cmdPause <- 16 * d; return`. -/
def execHoldOn11 (d : BitVec 4) (s : State) : Host.Outcome State Fault Refusal :=
  s.interpretByte (fun _ => Beacon.startHold true (holdTicks d)) .ret

/-- `HOLDON d`, row 0001001d (42 R251): `key <- 1; cmdPause <- 16 * d; return`. -/
def execHoldOn12 (d : BitVec 4) (s : State) : Host.Outcome State Fault Refusal :=
  s.interpretByte (fun _ => Beacon.startHold true (holdTicks d)) .ret

/-- `HOLDON d`, row 000101dd (42 R251): `key <- 1; cmdPause <- 16 * d; return`. -/
def execHoldOn14 (d : BitVec 4) (s : State) : Host.Outcome State Fault Refusal :=
  s.interpretByte (fun _ => Beacon.startHold true (holdTicks d)) .ret

/-- `HOLDON d`, row 00011ddd (42 R251): `key <- 1; cmdPause <- 16 * d; return`. -/
def execHoldOn18 (d : BitVec 4) (s : State) : Host.Outcome State Fault Refusal :=
  s.interpretByte (fun _ => Beacon.startHold true (holdTicks d)) .ret

/-- `HOLDOFF 0` (42 R253): `key <- 0; bytePos <- bytePos + 1; continue` (log 10). -/
def execHoldOff20 (s : State) : Host.Outcome State Fault Refusal :=
  s.interpretByte (fun _ => Beacon.zeroHold false) .cont

/-- `HOLDOFF d`, row 00100001 (42 R252): `key <- 0; cmdPause <- 16 * d; return`. -/
def execHoldOff21 (d : BitVec 4) (s : State) : Host.Outcome State Fault Refusal :=
  s.interpretByte (fun _ => Beacon.startHold false (holdTicks d)) .ret

/-- `HOLDOFF d`, row 0010001d (42 R252): `key <- 0; cmdPause <- 16 * d; return`. -/
def execHoldOff22 (d : BitVec 4) (s : State) : Host.Outcome State Fault Refusal :=
  s.interpretByte (fun _ => Beacon.startHold false (holdTicks d)) .ret

/-- `HOLDOFF d`, row 001001dd (42 R252): `key <- 0; cmdPause <- 16 * d; return`. -/
def execHoldOff24 (d : BitVec 4) (s : State) : Host.Outcome State Fault Refusal :=
  s.interpretByte (fun _ => Beacon.startHold false (holdTicks d)) .ret

/-- `HOLDOFF d`, row 00101ddd (42 R252): `key <- 0; cmdPause <- 16 * d; return`. -/
def execHoldOff28 (d : BitVec 4) (s : State) : Host.Outcome State Fault Refusal :=
  s.interpretByte (fun _ => Beacon.startHold false (holdTicks d)) .ret

/-- `UNK`, row 0011xxxx (42 R258): an immediate end-of-message. -/
def execUnk30 (_x : BitVec 4) (s : State) : Host.Outcome State Fault Refusal :=
  s.endMessage

/-- `UNK`, row 010xxxxx (42 R258): an immediate end-of-message. -/
def execUnk40 (_x : BitVec 5) (s : State) : Host.Outcome State Fault Refusal :=
  s.endMessage

/-- `UNK`, row 0110xxxx (42 R258): an immediate end-of-message. -/
def execUnk60 (_x : BitVec 4) (s : State) : Host.Outcome State Fault Refusal :=
  s.endMessage

/-- `UNK`, row 01110xxx (42 R258): an immediate end-of-message. -/
def execUnk70 (_x : BitVec 3) (s : State) : Host.Outcome State Fault Refusal :=
  s.endMessage

/-- `UNK`, row 011110xx (42 R258): an immediate end-of-message. -/
def execUnk78 (_x : BitVec 2) (s : State) : Host.Outcome State Fault Refusal :=
  s.endMessage

/-- `UNK`, row 0111110x (42 R258): an immediate end-of-message. -/
def execUnk7C (_x : BitVec 1) (s : State) : Host.Outcome State Fault Refusal :=
  s.endMessage

/-- `WSPACE` (42 R254): `key <- 0; cmdPause <- 5; return`. -/
def execWspace (s : State) : Host.Outcome State Fault Refusal :=
  s.interpretByte (fun _ => Beacon.startHold false spaceTicks) .ret

/-- `END` (42 R257): the end of the message. -/
def execEndMsg (s : State) : Host.Outcome State Fault Refusal :=
  s.endMessage

end Sys2Proof.Machine
end

