-- ==== Sys2Proof/Machine/Symbol.lean ====
section
/-! DEFINITION. The meanings of the Symbol bytes at a byte boundary (43_symbol_emission.md R281, R286). -/

namespace Sys2Proof.Machine

/-- `SYM6`, a Symbol of 6 elements (43 R281): the first element starts; the tick ends. -/
def execSym6 (b : BitVec 6) (s : State) : Host.Outcome State Fault Refusal :=
  s.interpretByte (fun _ => Beacon.keySymbol b) .ret

/-- `SYM5`, a Symbol of 5 elements (43 R281): the first element starts; the tick ends. -/
def execSym5 (b : BitVec 5) (s : State) : Host.Outcome State Fault Refusal :=
  s.interpretByte (fun _ => Beacon.keySymbol b) .ret

/-- `SYM4`, a Symbol of 4 elements (43 R281): the first element starts; the tick ends. -/
def execSym4 (b : BitVec 4) (s : State) : Host.Outcome State Fault Refusal :=
  s.interpretByte (fun _ => Beacon.keySymbol b) .ret

/-- `SYM3`, a Symbol of 3 elements (43 R281): the first element starts; the tick ends. -/
def execSym3 (b : BitVec 3) (s : State) : Host.Outcome State Fault Refusal :=
  s.interpretByte (fun _ => Beacon.keySymbol b) .ret

/-- `SYM2`, a Symbol of 2 elements (43 R281): the first element starts; the tick ends. -/
def execSym2 (b : BitVec 2) (s : State) : Host.Outcome State Fault Refusal :=
  s.interpretByte (fun _ => Beacon.keySymbol b) .ret

/-- `SYM1`, a Symbol of 1 element (43 R281): the first element starts; the tick ends. -/
def execSym1 (b : BitVec 1) (s : State) : Host.Outcome State Fault Refusal :=
  s.interpretByte (fun _ => Beacon.keySymbol b) .ret

/-- `RSVSYM0` (43 R286): treated as an immediate end-of-message (log 9). -/
def execRsvsym0 (s : State) : Host.Outcome State Fault Refusal :=
  s.endMessage

/-- `RSVSYM1` (43 R286): treated as an immediate end-of-message (log 9). -/
def execRsvsym1 (s : State) : Host.Outcome State Fault Refusal :=
  s.endMessage

end Sys2Proof.Machine
end

