-- ==== Sys2Proof/Machine/Dispatch.lean ====
section
/-! DEFINITION. Each instruction's meaning, one arm per constructor. -/

namespace Sys2Proof.Machine

def exec (i : Instr) (s : State) : Host.Outcome State Fault Refusal :=
  match i with
  | .setpwr m => Sys2Proof.Machine.execSetpwr m s
  | .unk04 x => Sys2Proof.Machine.execUnk04 x s
  | .unk08 x => Sys2Proof.Machine.execUnk08 x s
  | .holdOn10 => Sys2Proof.Machine.execHoldOn10 s
  | .holdOn11 d => Sys2Proof.Machine.execHoldOn11 d s
  | .holdOn12 d => Sys2Proof.Machine.execHoldOn12 d s
  | .holdOn14 d => Sys2Proof.Machine.execHoldOn14 d s
  | .holdOn18 d => Sys2Proof.Machine.execHoldOn18 d s
  | .holdOff20 => Sys2Proof.Machine.execHoldOff20 s
  | .holdOff21 d => Sys2Proof.Machine.execHoldOff21 d s
  | .holdOff22 d => Sys2Proof.Machine.execHoldOff22 d s
  | .holdOff24 d => Sys2Proof.Machine.execHoldOff24 d s
  | .holdOff28 d => Sys2Proof.Machine.execHoldOff28 d s
  | .unk30 x => Sys2Proof.Machine.execUnk30 x s
  | .unk40 x => Sys2Proof.Machine.execUnk40 x s
  | .unk60 x => Sys2Proof.Machine.execUnk60 x s
  | .unk70 x => Sys2Proof.Machine.execUnk70 x s
  | .unk78 x => Sys2Proof.Machine.execUnk78 x s
  | .unk7C x => Sys2Proof.Machine.execUnk7C x s
  | .wspace => Sys2Proof.Machine.execWspace s
  | .endMsg => Sys2Proof.Machine.execEndMsg s
  | .sym6 b => Sys2Proof.Machine.execSym6 b s
  | .sym5 b => Sys2Proof.Machine.execSym5 b s
  | .sym4 b => Sys2Proof.Machine.execSym4 b s
  | .sym3 b => Sys2Proof.Machine.execSym3 b s
  | .sym2 b => Sys2Proof.Machine.execSym2 b s
  | .sym1 b => Sys2Proof.Machine.execSym1 b s
  | .rsvsym0 => Sys2Proof.Machine.execRsvsym0 s
  | .rsvsym1 => Sys2Proof.Machine.execRsvsym1 s

end Sys2Proof.Machine
end

