-- ==== Sys2Proof/Machine/CharEncoder.lean ====
section
/-! DEFINITION. The Character Encoder `encodeChar` (40_char_encoder.md). -/

namespace Sys2Proof.Machine

/-- The patterns of the digits 0 to 9 (40 R130 to R139). -/
def digitPatterns : List (List Element) := [
  [.dash, .dash, .dash, .dash, .dash],
  [.dot, .dash, .dash, .dash, .dash],
  [.dot, .dot, .dash, .dash, .dash],
  [.dot, .dot, .dot, .dash, .dash],
  [.dot, .dot, .dot, .dot, .dash],
  [.dot, .dot, .dot, .dot, .dot],
  [.dash, .dot, .dot, .dot, .dot],
  [.dash, .dash, .dot, .dot, .dot],
  [.dash, .dash, .dash, .dot, .dot],
  [.dash, .dash, .dash, .dash, .dot]]

/-- The patterns of the letters A to Z (40 R140 to R165). -/
def letterPatterns : List (List Element) := [
  [.dot, .dash],
  [.dash, .dot, .dot, .dot],
  [.dash, .dot, .dash, .dot],
  [.dash, .dot, .dot],
  [.dot],
  [.dot, .dot, .dash, .dot],
  [.dash, .dash, .dot],
  [.dot, .dot, .dot, .dot],
  [.dot, .dot],
  [.dot, .dash, .dash, .dash],
  [.dash, .dot, .dash],
  [.dot, .dash, .dot, .dot],
  [.dash, .dash],
  [.dash, .dot],
  [.dash, .dash, .dash],
  [.dot, .dash, .dash, .dot],
  [.dash, .dash, .dot, .dash],
  [.dot, .dash, .dot],
  [.dot, .dot, .dot],
  [.dash],
  [.dot, .dot, .dash],
  [.dot, .dot, .dot, .dash],
  [.dot, .dash, .dash],
  [.dash, .dot, .dot, .dash],
  [.dash, .dot, .dash, .dash],
  [.dash, .dash, .dot, .dot]]

/-- The patterns of the fixed punctuation `= ? / . ,` (40 R166 to R170). -/
def punctuationPattern (c : Byte) : Option (List Element) :=
  if c = 0x3D#8 then some [.dash, .dot, .dot, .dot, .dash] else
  if c = 0x3F#8 then some [.dot, .dot, .dash, .dash, .dot, .dot] else
  if c = 0x2F#8 then some [.dash, .dot, .dot, .dash, .dot] else
  if c = 0x2E#8 then some [.dot, .dash, .dot, .dash, .dot, .dash] else
  if c = 0x2C#8 then some [.dash, .dash, .dot, .dot, .dash, .dash] else
  none

/-- A letter of either case (40 R122). -/
def isLetter (c : Byte) : Bool := decide (0x41#8 ≤ c ∧ c ≤ 0x5A#8) || decide (0x61#8 ≤ c ∧ c ≤ 0x7A#8)

/-- The Morse pattern of a character among the digits, the letters of either case and the fixed punctuation
(40 R121 to R123); a letter's place in the alphabet is its low five bits, which both cases share. -/
def morsePattern (c : Byte) : Option (List Element) :=
  if 0x30#8 ≤ c ∧ c ≤ 0x39#8 then digitPatterns[c.toNat - 0x30]?
  else if isLetter c then letterPatterns[(c &&& 0x1F#8).toNat - 1]?
  else punctuationPattern c

/-- `encodeChar(c)` under the extras `extra`: the cases of 40 R121 to R127, in that order. -/
def encodeChar (extra : List (Byte × Byte)) (c : Byte) : Byte :=
  match morsePattern c with
  | some pat => pack pat
  | none =>
    match extra.lookup c with
    | some v => v
    | none => if c = 0x20#8 then 0x7E#8 else if c = 0x00#8 then 0x7F#8 else 0x00#8

end Sys2Proof.Machine
end

