-- ==== Sys2Proof/Machine/MessageEncoder.lean ====
section
/-! DEFINITION. The Message Encoder `encodeMessage`, the host's assembler (41_message_encoder.md). -/

namespace Sys2Proof.Machine

/-- A C string: the characters before the first null (41 R204, R218). -/
def cString (t : List Byte) : List Byte := t.takeWhile (fun c => decide (c ≠ 0x00#8))

/-- The text a `$A` or `$T` directive inserts at source position `pos` (41 R208): the formatter's, when it keeps the
length it promises. For a longer one R207 does not say what happens: a free text `overlong pos`, of which what the
terminator's reserve leaves room for goes in (R201, R215). DESIGN CHOICE (log 28). -/
def insertedText (overlong : Nat → List Byte) (room pos : Nat) (s : SensorText) : List Byte :=
  if (cString s.text).length ≤ s.worstCase then cString s.text else cString ((overlong pos).take room)

/-- The value of a decimal digit, or none (00_scope.md G3: ASCII). -/
def digitValue (c : Byte) : Option Nat := if 0x30#8 ≤ c ∧ c ≤ 0x39#8 then some (c.toNat - 0x30) else none

/-- What one item of the source text asks for (41 R205 to R212). -/
inductive Item where
  /-- One byte to emit. -/
  | byte (v : Byte)
  /-- A sensor text to insert (R208, R209). -/
  | insert (t : SensorText)
  /-- A failure. -/
  | bad (k : EncodeErrorKind)
  deriving DecidableEq, Repr

/-- A hold directive's digit, 1 .. 9, added to the hold's base value (41 R210, R211). -/
def holdItem (base : Byte) (c : Option Byte) : Item :=
  match c.bind digitValue with
  | some d => if d = 0 then .bad .outOfRangeDigit else .byte (base ||| BitVec.ofNat 8 d)
  | none => .bad .outOfRangeDigit

/-- The directive that follows a `$`: what it asks for and how many characters it takes, the `$` among them
(41 R206 to R212). -/
def directive (e : Sensors) (t : List Byte) : Item × Nat :=
  match t.head? with
  | none => (.bad .malformedDirective, 1)
  | some c =>
    let a := t[1]?
    if c = 0x50#8 then -- $P
      match a.bind digitValue with
      | some d => if d ≤ 3 then (.byte (BitVec.ofNat 8 d), 3) else (.bad .powerMode, 3)
      | none => (.bad .powerMode, 3)
    else if c = 0x41#8 then -- $A
      match a.bind digitValue, t[2]?.bind digitValue with
      | some d, some u =>
        match e.analog[10 * d + u]? with
        | some s => (.insert s, 4)
        | none => (.bad .outOfRangeDigit, 4)
      | _, _ => (.bad .outOfRangeDigit, 4)
    else if c = 0x54#8 then -- $T
      match a.bind digitValue with
      | some d =>
        match e.temperature[d]? with
        | some s => (.insert s, 3)
        | none => (.bad .outOfRangeDigit, 3)
      | none => (.bad .outOfRangeDigit, 3)
    else if c = 0x2B#8 then (holdItem 0x10#8 a, 3) -- $+
    else if c = 0x2D#8 then (holdItem 0x20#8 a, 3) -- $-
    else (.bad .malformedDirective, 2)

/-- The item at the front of a source text, and how many characters it takes (41 R204, R205). -/
def itemAt (extra : List (Byte × Byte)) (e : Sensors) (c : Byte) (t : List Byte) : Item × Nat :=
  if c = 0x24#8 then directive e t
  else
    let v := encodeChar extra c
    if v = 0x00#8 then (.bad .unencodable, 1) else (.byte v, 1)

/-- A text encoded in place (41 R208): the encoded characters up to the first unencodable one, the rest raw, and
whether all were encoded. -/
def encodeText (extra : List (Byte × Byte)) : List Byte → List Byte × Bool
  | [] => ([], true)
  | c :: t =>
    let v := encodeChar extra c
    if v = 0x00#8 then (c :: t, false)
    else
      let r := encodeText extra t
      (v :: r.1, r.2)

/-- What a call of `encodeMessage` leaves: the bytes it wrote from position 0 up, and its error, if any. -/
structure EncodeResult where
  bytes : List Byte
  error : Option EncodeError
  deriving DecidableEq, Repr

/-- A failure (41 R202): END at position 0; the bytes above keep what the attempt wrote there (log 20). -/
def encodeFailure (k : EncodeErrorKind) (pos : Nat) (attempt : List Byte) : EncodeResult :=
  ⟨0x7F#8 :: attempt.drop 1, some ⟨k, pos⟩⟩

/-- The scan of the source text (41 R204 to R214). `overlong` gives the free texts of `insertedText`, `pos` is the read
position, `skip` how many characters of an item already handled are still to be passed over, `out` the bytes emitted so
far (its length is the write cursor `w`). -/
def scan (extra : List (Byte × Byte)) (e : Sensors) (cap : Nat) (overlong : Nat → List Byte) :
    List Byte → (pos skip : Nat) → (out : List Byte) → EncodeResult
  | [], _, _, out => ⟨out ++ [0x7F#8], none⟩
  | c :: t, pos, skip, out =>
    match skip with
    | n + 1 => scan extra e cap overlong t (pos + 1) n out
    | 0 =>
      match itemAt extra e c t with
      | (.bad k, _) => encodeFailure k pos out
      | (.byte v, n) =>
        if out.length < cap - 1 then scan extra e cap overlong t (pos + 1) (n - 1) (out ++ [v])
        else encodeFailure .bufferTooSmall pos out
      | (.insert s, n) =>
        if out.length + s.worstCase > cap - 1 then encodeFailure .bufferTooSmall pos out
        else
          let r := encodeText extra (insertedText overlong (cap - 1 - out.length) pos s)
          if r.2 then scan extra e cap overlong t (pos + 1) (n - 1) (out ++ r.1)
          else encodeFailure .unencodable pos (out ++ r.1)

/-- `encodeMessage` on a source text with capacity `cap` (41 R200): the bytes written and the error, if any. -/
def encodeMessage (extra : List (Byte × Byte)) (e : Sensors) (cap : Nat) (text : List Byte) : EncodeResult :=
  scan extra e cap (Config.overlongText cap (cString text) e) (cString text) 0 0 []

/-- `getLastEncodeError()` (41 R203): the empty text means no error; the wording is free (log 18). -/
def diagnosticText (d : Option Diagnostic) : List Byte :=
  match d with
  | none => []
  | some d =>
    let t := Config.diagnosticText d.error.kind d.error.pos d.outCapacity d.text d.sensors
    t.first :: t.others

end Sys2Proof.Machine
end

