-- ==== Sys2Proof/Machine/Flags.lean ====
section
/-! DEFINITION. The flags, what the host sees of them, and the named states (10_state.md R36, R40, R44). -/

namespace Sys2Proof.Machine

/-- `key_n`, the complement of `key` (10 R36). -/
def Beacon.keyN (b : Beacon) : Bool := !b.key

/-- The level of the `key` pin under `KEY_ACTIVE_LEVEL` (10 R36; 92 D20). -/
def keyPin (p : Params) (b : Beacon) : Bool := b.key == p.keyActiveLevel

/-- `isDone(T) = (enabled == 0) OR (idle == 1 AND next == none)` (44 R302). -/
def Beacon.isDone (b : Beacon) : Bool := !b.enabled || (b.idle && b.next.isNone)

/-- Some countdown is running (10 R30). -/
def Beacon.counting (b : Beacon) : Bool :=
  decide (b.cmdPause ≠ 0#8) || decide (b.onPause ≠ 0#2) || decide (b.offPause ≠ 0#2)

/-- The named state `HoldingControl` (10 R44). -/
def Beacon.holdingControl (b : Beacon) : Bool := decide (b.cmdPause ≠ 0#8)

/-- The named state `EmittingSymbolBit` (10 R44). -/
def Beacon.emittingSymbolBit (b : Beacon) : Bool := decide (b.onPause ≠ 0#2) || decide (b.offPause ≠ 0#2)

/-- The named states `Dispatching` and `InterpretingByte`: at a byte boundary inside a tick (10 R44). -/
def Beacon.interpretingByte (b : Beacon) : Bool := !b.idle && decide (b.bitPos = 7#3) && !b.counting

/-- The wall-clock milliseconds of a hold with duration code `d` (42 R261, 70 R392), for a period of whole milliseconds
(log 1); no rule depends on it. -/
def holdMillis (p : Params) (d : BitVec 4) : Nat := (holdTicks d).toNat * p.tickPeriodMs

end Sys2Proof.Machine
end

