-- ==== Sys2Proof/Machine/Tick.lean ====
section
/-! DEFINITION. `tick(T)` (42_transmitter_tick_and_control_bytes.md R240): the phases P0 to P2, which the machine's
step runs, and the whole tick and cycle as the atomic operations of 00_scope.md R9. The latter select a byte's rule
by the ranges of 42 R246 and run the stripping loop of 43 R281, apart from the decoder and the meanings; that the
machine's steps agree with them is an obligation. -/

namespace Sys2Proof.Machine

/-- What follows a counter that expired at a byte boundary: the interpret phase in the same tick (D7), or in the next
tick under the parameter `BOUNDARY_EXTRA_TICK` (log 13). -/
def Beacon.atBoundary (p : Params) (b : Beacon) : Beacon × Bool := (b, !p.boundaryExtraTick)

/-- The countdown of `cmdPause` (42 R244). -/
def Beacon.countCmd (p : Params) (b : Beacon) : Beacon × Bool :=
  let c := b.cmdPause - 1#8
  if c ≠ 0#8 then ({ b with cmdPause := c }, false)
  else Beacon.atBoundary p { b with cmdPause := c }.advance

/-- The countdown of `onPause` (43 R282). -/
def Beacon.countOn (b : Beacon) : Beacon × Bool :=
  let c := b.onPause - 1#2
  if c = 0#2 then
    ({ b with onPause := c, key := false, offPause := if b.bitPos = 0#3 then 3#2 else 1#2 }, false)
  else ({ b with onPause := c }, false)

/-- The countdown of `offPause` (43 R283), the next element (R284) and the end of the Symbol (R285). -/
def Beacon.countOff (p : Params) (b : Beacon) : Beacon × Bool :=
  let c := b.offPause - 1#2
  if c ≠ 0#2 then ({ b with offPause := c }, false)
  else if b.bitPos ≠ 0#3 then ({ b with offPause := c }.nextElement, false)
  else Beacon.atBoundary p { b with offPause := c }.advance

/-- Phase P2 (42 R243): the active counter, or straight on to P3. The flag says that P3 follows in this tick. -/
def Beacon.counterPhase (p : Params) (b : Beacon) : Beacon × Bool :=
  if b.cmdPause ≠ 0#8 then b.countCmd p
  else if b.onPause ≠ 0#2 then b.countOn
  else if b.offPause ≠ 0#2 then b.countOff p
  else (b, true)

/-- Phases P0, P1, P2 of a tick (42 R240 to R244). The flag says that P3 follows in this tick. -/
def Beacon.tickPhases (p : Params) (b : Beacon) : Beacon × Bool :=
  if !b.enabled then (b, false)
  else if b.idle then
    match b.next with
    | none => (b, false)
    | some h => (b.adopt h).counterPhase p
  else b.counterPhase p

/-- The byte rule a fetched byte selects (42 R246), with how it ends (42 R245). -/
def Beacon.byteRule (p : Params) (v : Byte) (b : Beacon) : Beacon × ByteEnd :=
  if 0xFE#8 ≤ v then (b.endReaction p, .ret)
  else if v.getLsbD 7 then (b.stripSymbol v, .ret)
  else if v < 0x04#8 then (b.setPower (v.extractLsb' 0 2), .cont)
  else if v = 0x10#8 ∨ v = 0x20#8 then (b.zeroHold (decide (v = 0x10#8)), .cont)
  else if 0x11#8 ≤ v ∧ v ≤ 0x1F#8 then (b.startHold true (16#8 * (v &&& 0x0F#8)), .ret)
  else if 0x21#8 ≤ v ∧ v ≤ 0x2F#8 then (b.startHold false (16#8 * (v &&& 0x0F#8)), .ret)
  else if v = 0x7E#8 then (b.startHold false spaceTicks, .ret)
  else (b.endReaction p, .ret)

/-- The loop of the interpret phase P3 (42 R245), at most `fuel` bytes. R247 bounds the bytes of one tick by
MSG_CAPACITY + 1, which `Beacon.tick` gives it, so that running out of fuel is not met. -/
def Beacon.interpretLoop (p : Params) (m : Memory) : Nat → Beacon → Beacon
  | 0, b => b
  | fuel + 1, b =>
    match b.fetch p m with
    | .error _ => b
    | .ok v =>
      match b.byteRule p v with
      | (b', .ret) => b'
      | (b', .cont) => Beacon.interpretLoop p m fuel b'

/-- `tick(T)` as one atomic operation (42 R240). -/
def Beacon.tick (p : Params) (m : Memory) (b : Beacon) : Beacon :=
  match b.tickPhases p with
  | (b', true) => b'.interpretLoop p m (p.msgCapacity + 1)
  | (b', false) => b'

/-- `cycle()` as one atomic operation: every transmitter ticked once (45_array_manager.md R321, R322). -/
def State.cycle (s : State) : State := { s with beacons := s.beacons.map (Beacon.tick s.params s.mem) }

/-- The step that begins a cycle (45 R321): the first beacon's tick is next. -/
def State.beginCycle (s : State) : State := { s with turn := if s.beacons.length = 0 then .host else .tick 0 }

/-- The step that runs the phases P0 to P2 of beacon `k`'s tick. -/
def State.tickTurn (s : State) (k : Nat) : Host.Outcome State Fault Refusal :=
  match s.beacons[k]? with
  | none => .fault .noActiveBeacon
  | some b =>
    let r := b.tickPhases s.params
    .next { s with beacons := s.beacons.set k r.1, turn := if r.2 then .interpret k else s.turnAfter k }

/-- The byte that beacon `k` fetches in its interpret phase (42 R245). -/
def State.fetchByte (s : State) (k : Nat) : Except Fault Byte :=
  match s.beacons[k]? with
  | none => .error .noActiveBeacon
  | some b => b.fetch s.params s.mem

end Sys2Proof.Machine
end

