-- ==== Sys2Proof/Machine/HostOps.lean ====
section
/-! DEFINITION. The operations of the host on the transmitters, the array and message memory
(44_transmitter_operations.md, 45_array_manager.md, 20_memory.md section 3, 70_reset_and_hazards.md R373, R390). -/

namespace Sys2Proof.Machine

/-- `setNextMessage(T, h)` (44 R301). -/
def Beacon.setNext (h : Handle) (b : Beacon) : Beacon := { b with next := some h }

/-- `setEnabled(T, true)` (44 R303). -/
def Beacon.enable (b : Beacon) : Beacon := { b with enabled := true }

/-- `setEnabled(T, false)` (44 R304). `next` is kept unless the parameter `DISABLE_CLEARS_NEXT` is set (D17; log 15). -/
def Beacon.disable (p : Params) (b : Beacon) : Beacon :=
  { b with
    enabled := false, key := false, pwr := 0#2, idle := true, cur := none
    cmdPause := 0#8, onPause := 0#2, offPause := 0#2
    next := if p.disableClearsNext then none else b.next }

/-- A transmitter has the handle as its current or its pending message. -/
def Beacon.refersTo (b : Beacon) (h : Handle) : Bool := b.cur == some h || b.next == some h

/-- Beacon `k` is not done and has buffer `h`: `h` is current or pending, or was handed over and not yet handed back
(20 R72; 70 R390). -/
def State.lentTo (s : State) (h : Handle) (k : Nat) : Bool :=
  match s.beacons[k]? with
  | some b => !b.isDone && (b.refersTo h || s.loans.contains (k, h))
  | none => false

/-- The host may not write buffer `h` (20 R72, 70 R380). -/
def State.lent (s : State) (h : Handle) : Bool := (List.range s.beacons.length).any (s.lentTo h)

/-- Another beacon than `i` has buffer `h`, as its current or pending message (70 R388) or on loan (20 R72). -/
def State.heldElsewhere (s : State) (i : Nat) (h : Handle) : Bool :=
  (List.range s.beacons.length).any fun k =>
    decide (k ≠ i) && (s.lentTo h k || (match s.beacons[k]? with
      | some b => b.refersTo h
      | none => false))

/-- Loans end when their beacon is done (20 R72: "until the first later moment at which isDone(T) is true"). -/
def State.settleLoans (s : State) : State :=
  { s with loans := s.loans.filter fun l =>
      match s.beacons[l.1]? with
      | some b => !b.isDone
      | none => false }

/-- The state in which the oldest pending operation is performed: taken off the list, `es` left, and the loans settled. -/
def State.takeEvent (s : State) (es : List Event) : State := State.settleLoans { s with events := es }

/-- A handle the interface takes: the refusals are those of 44 R301 (`none`, D19; a handle of no buffer). -/
def State.realHandle (s : State) (h : Option Handle) (f : Handle → Host.Outcome State Fault Refusal) :
    Host.Outcome State Fault Refusal :=
  match h with
  | none => .refused .noHandle
  | some h => if h < s.params.nBuffers then f h else .refused .noSuchBuffer

/-- Installs a message on beacon `i` (44 R301) and notes the loan; one handle given to two beacons at once is refused
(70 R388, R390). -/
def State.install (s : State) (i : Nat) (b : Beacon) (h : Handle) (r : Option Reply) :
    Host.Outcome State Fault Refusal :=
  if s.heldElsewhere i h then .refused .handleShared
  else .next { s with beacons := s.beacons.set i (b.setNext h), loans := (i, h) :: s.loans, reply := r }

/-- An operation on beacon `i`; an index out of range is refused (45 R323). -/
def State.onBeacon (s : State) (i : Nat) (f : Beacon → Host.Outcome State Fault Refusal) :
    Host.Outcome State Fault Refusal :=
  match s.beacons[i]? with
  | some b => f b
  | none => .refused .badIndex

/-- The host writes one byte of message memory (20 R61, R72). -/
def State.hostWrite (s : State) (h : Handle) (pos : Nat) (v : Byte) : Host.Outcome State Fault Refusal :=
  if ¬ h < s.params.nBuffers then .refused .noSuchBuffer
  else if ¬ pos < s.params.msgCapacity then .refused .badOffset
  else if s.lent h then .refused .bufferLent
  else .next { s with mem := s.mem.write (cellAddr s.params h pos) v, reply := none }

/-- The host runs the Message Encoder into buffer `h` (41 R200, R202, R203, R214). -/
def State.hostEncode (s : State) (h : Handle) (cap : Nat) (text : List Byte) (e : Sensors) :
    Host.Outcome State Fault Refusal :=
  if ¬ h < s.params.nBuffers then .refused .noSuchBuffer
  else if cap = 0 ∨ s.params.msgCapacity < cap then .refused .badCapacity
  else if s.lent h then .refused .bufferLent
  else
    let r := encodeMessage s.params.extraPunct e cap text
    .next { s with
      mem := s.mem.writeMany (cellAddr s.params h 0) r.bytes
      diag := r.error.map fun err => ⟨err, cap, text, e⟩
      reply := some (.encoded r.error.isNone) }

/-- Reset is asserted (70 R371, R373): every transmitter takes its reset state. Message memory and the host's
diagnostic are not CORE's to reset (log 24). -/
def State.assertReset (s : State) : State :=
  { s with beacons := s.beacons.map (fun _ => Beacon.reset s.params), reply := none, loans := [] }

/-- The operation an event stands for (00_scope.md R9), in a state whose loans are settled. -/
def State.perform (s : State) : Event → Host.Outcome State Fault Refusal
  | .cycle => .next s.beginCycle
  | .setNextMessage i h => s.onBeacon i fun b => s.realHandle h fun h => s.install i b h none
  | .isDone i => s.onBeacon i fun b => .next { s with reply := some (.done b.isDone) }
  | .setEnabled i on => s.onBeacon i fun b =>
      .next { s with
        beacons := s.beacons.set i (if on then b.enable else b.disable s.params)
        reply := none }
  | .handoff i h => s.onBeacon i fun b => s.realHandle h fun h =>
      if b.isDone then s.install i b h (some (.accepted true))
      else .next { s with reply := some (.accepted false) }
  | .writeByte h pos v => s.hostWrite h pos v
  | .encodeMessage h cap text e => s.hostEncode h cap text e
  | .getLastEncodeError => .next { s with reply := some (.diagnostic (diagnosticText s.diag)) }
  | .encodeChar c => .next { s with reply := some (.symbol (encodeChar s.params.extraPunct c)) }
  | .reset => .next s.assertReset

/-- The step between operations (00 R9, R10): the oldest pending event, or, when none is pending, the tick source's
`cycle()` (70 R393: it is called again and again; log 5). -/
def State.hostTurn (s : State) : Host.Outcome State Fault Refusal :=
  match s.events with
  | [] => .next s.beginCycle
  | e :: es => (s.takeEvent es).perform e

end Sys2Proof.Machine
end

