-- ==== Sys2Proof/Machine/Step.lean ====
section
/-! DEFINITION. One step of the machine: the move of whoever's turn it is (log 4), and where the next instruction's
byte is fetched. -/

namespace Sys2Proof.Machine

/-- One step. In the interpret phase of a beacon the byte at its program counter is fetched, decoded and executed
(42 R245). -/
def step (s : State) : Host.Outcome State Fault Refusal :=
  match s.turn with
  | .host => s.hostTurn
  | .tick k => s.tickTurn k
  | .interpret k =>
    match s.fetchByte k with
    | .ok v => exec (decodeByte v) s
    | .error f => .fault f

/-- `s` with the byte of an instruction placed at offset 0 of buffer 0, and beacon 0 in the interpret phase of its tick
at that byte: what adopting a message in buffer 0 gives (42 R242). It stands for the host's loading a message and
handing it over (log 6). -/
def State.withFetchWord (s : State) (nbits w : Nat) : State :=
  { s with
    mem := s.mem.writeMany (cellAddr s.params 0 0) ((tableBytes nbits w).take 1)
    beacons := s.beacons.modify 0 fun b =>
      { b with
        cur := some 0, bytePos := 0, bitPos := 7#3, idle := false, enabled := true
        cmdPause := 0#8, onPause := 0#2, offPause := 0#2 }
    turn := .interpret 0 }

end Sys2Proof.Machine
end

