-- ==== Sys2Proof/Machine/Timing.lean ====
section
/-! DEFINITION. Durations and the key waveform of a message, in ticks (42 R261, 43 R287, 70 R393). The machine does not
use them: they are what its ticks are to add up to. -/

namespace Sys2Proof.Machine

/-- The duration of a Symbol: `D = sum of len(e[i]) + (n - 1) + 3` (43 R287). -/
def symbolTicks (pat : List Element) : Nat := (pat.map Element.len).sum + (pat.length - 1) + 3

/-- Whether the key is on `u` ticks after the tick that interprets a Symbol: element `i` starts at `s[i]`,
`s[i+1] = s[i] + len(e[i]) + 1`, and is on for `len(e[i])` ticks (43 R287). -/
def keyAfter : List Element → Nat → Bool
  | [], _ => false
  | e :: es, u => if u < e.len then true else if u = e.len then false else keyAfter es (u - e.len - 1)

/-- A Symbol byte, 0x80 .. 0xFD (30 R92). -/
def isSymbol (v : Byte) : Bool := decide (0x80#8 ≤ v ∧ v ≤ 0xFD#8)

/-- The ticks a byte costs before the next byte is interpreted (70 R393): 16 * d for a hold, 5 for the space, the
duration of a Symbol, and nothing for SETPWR and the zero-duration holds. -/
def byteTicks (v : Byte) : Nat :=
  if isSymbol v then symbolTicks (unpack v)
  else if 0x10#8 ≤ v ∧ v ≤ 0x2F#8 then 16 * (v.toNat % 16)
  else if v = 0x7E#8 then 5
  else 0

/-- A byte that ends a message: END, an unknown Control Byte or a reserved Symbol (42 R257, R258; 43 R286). -/
def endsMessage (v : Byte) : Bool :=
  decide (v = 0x7F#8) || decide (0x04#8 ≤ v ∧ v ≤ 0x0F#8) || decide (0x30#8 ≤ v ∧ v ≤ 0x7D#8) || decide (0xFE#8 ≤ v)

end Sys2Proof.Machine
end

