-- ==== Sys2Proof/Safety.lean ====
section
/-! DEFINITION. What holds of the machine in every state a run can reach, and which messages are admissible: the terms
in which claims are made. -/

namespace Sys2Proof.Machine

/-- The counters are mutually exclusive: at most one is nonzero (10 R30). -/
abbrev Beacon.exclusive (b : Beacon) : Prop :=
  (b.cmdPause ≠ 0#8 → b.onPause = 0#2 ∧ b.offPause = 0#2) ∧ (b.onPause ≠ 0#2 → b.offPause = 0#2)

/-- A handle slot holds a handle of a buffer, or none (44 R301). -/
abbrev slotOk (p : Params) (o : Option Handle) : Prop := ∀ h ∈ o, h < p.nBuffers

/-- What holds of a transmitter between operations. -/
abbrev Beacon.settled (p : Params) (b : Beacon) : Prop :=
  -- 10 R23: `cur == none` exactly when `idle == 1`
  (b.cur = none ↔ b.idle = true) ∧
  -- 10 R30: idle, all counters zero; not idle, exactly one is nonzero (or, the model's choice of log 13, all are zero
  -- at a byte boundary while the extra tick of `BOUNDARY_EXTRA_TICK` is due)
  b.exclusive ∧
  (b.idle = true → b.counting = false) ∧
  (b.idle = false → b.counting = true ∨ (p.boundaryExtraTick = true ∧ b.bitPos = 7#3)) ∧
  -- 42 R242: idle, the carrier is off; 60 R348: disabled, it is idle with power mode 0
  (b.idle = true → b.key = false) ∧
  (b.enabled = false → b.idle = true ∧ b.pwr = 0#2) ∧
  -- 10 R24: `bytePos` stays within 0 .. MSG_CAPACITY, and a byte under way lies inside the buffer
  b.bytePos ≤ p.msgCapacity ∧
  (b.counting = true → b.bytePos < p.msgCapacity) ∧
  -- 10 R25, R27: a hold leaves `bitPos` at 7 and counts at most 240
  (b.cmdPause ≠ 0#8 → b.bitPos = 7#3 ∧ b.cmdPause ≤ 240#8) ∧
  -- 10 R25, R28, R29: inside a Symbol at most 5 elements are left, and the key is on exactly in the on phases
  (b.onPause ≠ 0#2 → b.bitPos ≤ 5#3 ∧ b.key = true) ∧
  (b.offPause ≠ 0#2 → b.bitPos ≤ 5#3 ∧ b.key = false) ∧
  -- 43 R282: the gap after an element that is not the last is one tick
  (b.offPause ≠ 0#2 → b.bitPos ≠ 0#3 → b.offPause = 1#2) ∧
  slotOk p b.cur ∧ slotOk p b.next

/-- The precondition of the interpret phase (42 R245), with the bounds the fetch needs. -/
abbrev Beacon.atByte (p : Params) (b : Beacon) : Prop :=
  b.enabled = true ∧ b.idle = false ∧ b.cur ≠ none ∧ b.bitPos = 7#3 ∧ b.counting = false ∧
  b.bytePos ≤ p.msgCapacity ∧ slotOk p b.cur ∧ slotOk p b.next

/-- What holds of beacon `k` in a state. -/
abbrev State.beaconOk (s : State) (k : Nat) : Prop :=
  ∀ b ∈ s.beacons[k]?, (s.turn = .interpret k → b.atByte s.params) ∧ (s.turn ≠ .interpret k → b.settled s.params)

/-- The beacon a turn names, inside a cycle. -/
def Turn.beacon? : Turn → Option Nat
  | .host => none
  | .tick k => some k
  | .interpret k => some k

/-- The turn names a beacon the array has. -/
abbrev State.turnOk (s : State) : Prop := ∀ k ∈ s.turn.beacon?, k < s.beacons.length

/-- Every listed byte lies in a buffer. -/
abbrev State.memBounded (s : State) : Prop := ∀ c ∈ s.mem, c.1 < s.params.nBuffers * s.params.msgCapacity

/-- The invariant of the machine: admissible parameters, an array of `N_BEACONS` transmitters (45 R320) each as above,
and message memory in canonical form within the buffers. -/
abbrev State.Inv (s : State) : Prop :=
  s.params.wf = true ∧ s.beacons.length = s.params.nBeacons ∧ s.mem.wf = true ∧ s.memBounded ∧ s.turnOk ∧
  ∀ k < s.beacons.length, s.beaconOk k

/-- A step answers with a next state. -/
abbrev Completes (o : Host.Outcome State Fault Refusal) : Prop := ∃ t, o = .next t

/-- A byte that a successful `encodeMessage` can emit before the terminator (41 R218). -/
def encoderByte (extra : List (Byte × Byte)) (v : Byte) : Prop :=
  (isSymbol v = true ∧ ∃ c, encodeChar extra c = v) ∨ v = 0x7E#8 ∨ v ≤ 0x03#8 ∨ (0x11#8 ≤ v ∧ v ≤ 0x19#8) ∨
  (0x21#8 ≤ v ∧ v ≤ 0x29#8)

/-- A byte of a hand-built message on which the sources settle the behaviour: no reserved Symbol, no zero-duration
hold (93 U1, U2). -/
def settledByte (v : Byte) : Prop := isSymbol v = true ∨ (v ≠ 0x10#8 ∧ v ≠ 0x20#8 ∧ v < 0xFE#8 ∧ endsMessage v = false)

/-- The admission predicate of 93_implementation_defined.md (U1, U2, U3, strict form, with U12): buffer `h` holds bytes
of 41 R218 and then 0x7F below `MSG_CAPACITY`. The premise 70 R386 asks of the host. -/
def admissible (p : Params) (m : Memory) (h : Handle) : Prop :=
  ∃ n < p.msgCapacity, msgRead p m h n = 0x7F#8 ∧ ∀ j < n, encoderByte p.extraPunct (msgRead p m h j)

/-- The form of the admission predicate that admits hand-built messages: a terminating byte is END or UNK. -/
def admissibleByHand (p : Params) (m : Memory) (h : Handle) : Prop :=
  ∃ n < p.msgCapacity, (endsMessage (msgRead p m h n) = true ∧ msgRead p m h n < 0xFE#8) ∧
    ∀ j < n, settledByte (msgRead p m h j)

/-- The message in buffer `h` ends its transmission by transmitter `k` in the step from `s` to `t` (70 R391): that step
interprets a byte of it by the END, UNK or reserved-Symbol rule, and `k` is idle after it. It ends `k`'s tick. -/
def transmitted (s t : State) (k : Nat) (h : Handle) : Prop :=
  s.turn = .interpret k ∧ (∃ b, s.beacons[k]? = some b ∧ b.cur = some h) ∧
  (∃ v, s.fetchByte k = .ok v ∧ endsMessage v = true) ∧
  step s = .next t ∧ ∃ b, t.beacons[k]? = some b ∧ b.idle = true

/-- Transmitter `k` has transmitted the message in buffer `h` within `n` steps from `s` (70 R391: claims are about finite
prefixes). -/
def transmittedWithin (n : Nat) (s : State) (k : Nat) (h : Handle) : Prop :=
  ∃ m < n, ∃ u t, Host.Core.run core m s = .next u ∧ transmitted u t k h

/-- A transmitter after `n` ticks with message memory unchanged (42 R240). -/
def Beacon.afterTicks (p : Params) (m : Memory) : Nat → Beacon → Beacon
  | 0, b => b
  | n + 1, b => Beacon.afterTicks p m n (b.tick p m)

/-- `tick(B[k])` of one transmitter of the array, as one atomic operation (42 R240, 45 R321). -/
def State.tickOne (s : State) (k : Nat) : State :=
  { s with beacons := s.beacons.modify k (Beacon.tick s.params s.mem) }

end Sys2Proof.Machine
end

