-- ==== Sys2Proof/Certificates/Slice0/Obligations.lean ====
section
/-! DEFINITION. The statements for the provers. A result equation `exec i s = .next …` gives the whole next state: what
its record does not name is unchanged, every byte of memory among it. -/

open Sys2Proof Sys2Proof.Machine

/-! ## Encoding (30_encoding.md) -/

/-- 30 R90 to R95, R104: a well-formed instruction is read back from the byte that encodes it, whatever follows it. -/
def Obligations.DecodeOfEncode : Prop :=
  ∀ (i : Instr) (rest : List Byte), i.wf = true →
    decode (encode i :: rest) = .ok (i, rest) ∧ decodeOne [encode i] = .ok i

/-- 30 R91, R101, R104: every byte is a well-formed instruction that encodes to it, and belongs to exactly one row of
the opcode table, that instruction's. -/
def Obligations.EveryByteIsOneInstruction : Prop :=
  ∀ v : Byte, (decodeByte v).wf = true ∧ encode (decodeByte v) = v ∧
    opcodeTable.filter (fun r => fits v r.value r.mask) = [(decodeByte v).row]

/-- A sanity statement: words written out from 30 R92 and R95 decode to the instructions they stand for. -/
def Obligations.WrittenWordsDecode : Prop :=
  decodeByte 0b00000010#8 = .setpwr 2#2 ∧ decodeByte 0b00010101#8 = .holdOn14 5#4 ∧
  decodeByte 0b00100011#8 = .holdOff22 3#4 ∧ decodeByte 0b00110101#8 = .unk30 5#4 ∧
  decodeByte 0b01111110#8 = .wspace ∧ decodeByte 0b01111111#8 = .endMsg ∧
  decodeByte 0b10001100#8 = .sym6 0b001100#6 ∧ decodeByte 0b11110010#8 = .sym3 0b010#3 ∧
  decodeByte 0b11111101#8 = .sym1 1#1 ∧ decodeByte 0b11111110#8 = .rsvsym0

/-- 30 R91: the map of the 256 byte values, by its ranges. -/
def Obligations.MnemonicOfRange : Prop :=
  ∀ v : Byte, (decodeByte v).row.mnemonic =
    if v ≤ 0x03#8 then "SETPWR" else if v ≤ 0x0F#8 then "UNK" else if v ≤ 0x1F#8 then "HOLDON"
    else if v ≤ 0x2F#8 then "HOLDOFF" else if v ≤ 0x7D#8 then "UNK" else if v = 0x7E#8 then "WSPACE"
    else if v = 0x7F#8 then "END" else if v ≤ 0xBF#8 then "SYM6" else if v ≤ 0xDF#8 then "SYM5"
    else if v ≤ 0xEF#8 then "SYM4" else if v ≤ 0xF7#8 then "SYM3" else if v ≤ 0xFB#8 then "SYM2"
    else if v ≤ 0xFD#8 then "SYM1" else if v = 0xFE#8 then "RSVSYM0" else "RSVSYM1"

/-- 30 R93: packing a pattern of 1 to 6 elements gives a Symbol byte that unpacks to it, and every Symbol byte is the
packing of its pattern. -/
def Obligations.PackInvertsUnpack : Prop :=
  (∀ pat : List Element, 1 ≤ pat.length → pat.length ≤ 6 → isSymbol (pack pat) = true ∧ unpack (pack pat) = pat) ∧
  ∀ v : Byte, isSymbol v = true → 1 ≤ (unpack v).length ∧ (unpack v).length ≤ 6 ∧ pack (unpack v) = v

/-! ## The instructions (42 R250 to R258, 43 R281, R286) -/

/-- 42 R250: `pwr <- v[1:0]; bytePos <- bytePos + 1; continue`. The turn stays with the beacon's interpret phase. -/
def Obligations.SetPowerEffect : Prop :=
  ∀ (s : State) (k : Nat) (b : Beacon) (m : BitVec 2), s.turn = .interpret k → s.beacons[k]? = some b →
    exec (.setpwr m) s = .next { s with
      beacons := s.beacons.set k { b with pwr := m, bytePos := b.bytePos + 1 }
      turn := .interpret k }

/-- 42 R251, the pseudocode: `key <- 1; cmdPause <- 16 * (v & 0x0F); return`, for the four rows of `HOLDON d`. -/
def Obligations.HoldOnEffect : Prop :=
  ∀ (s : State) (k : Nat) (b : Beacon) (d : BitVec 4) (i : Instr),
    (i = .holdOn11 d ∨ i = .holdOn12 d ∨ i = .holdOn14 d ∨ i = .holdOn18 d) →
    s.turn = .interpret k → s.beacons[k]? = some b →
    exec i s = .next { s with
      beacons := s.beacons.set k { b with key := true, cmdPause := 16#8 * (encode i &&& 0x0F#8) }
      turn := s.turnAfter k }

/-- 42 R252, the pseudocode: `key <- 0; cmdPause <- 16 * (v & 0x0F); return`, for the four rows of `HOLDOFF d`. -/
def Obligations.HoldOffEffect : Prop :=
  ∀ (s : State) (k : Nat) (b : Beacon) (d : BitVec 4) (i : Instr),
    (i = .holdOff21 d ∨ i = .holdOff22 d ∨ i = .holdOff24 d ∨ i = .holdOff28 d) →
    s.turn = .interpret k → s.beacons[k]? = some b →
    exec i s = .next { s with
      beacons := s.beacons.set k { b with key := false, cmdPause := 16#8 * (encode i &&& 0x0F#8) }
      turn := s.turnAfter k }

/-- 42 R253, which is the spec's own decision D9 (log 10): a zero-duration hold sets the key, costs no tick, and the
next byte is due in the same tick. -/
def Obligations.ZeroHoldEffect : Prop :=
  ∀ (s : State) (k : Nat) (b : Beacon), s.turn = .interpret k → s.beacons[k]? = some b →
    exec .holdOn10 s = .next { s with
      beacons := s.beacons.set k { b with key := true, bytePos := b.bytePos + 1 }
      turn := .interpret k } ∧
    exec .holdOff20 s = .next { s with
      beacons := s.beacons.set k { b with key := false, bytePos := b.bytePos + 1 }
      turn := .interpret k }

/-- 42 R254, with the counter of the spec's decision D10: `key <- 0; cmdPause <- 5; return`. -/
def Obligations.WordSpaceEffect : Prop :=
  ∀ (s : State) (k : Nat) (b : Beacon), s.turn = .interpret k → s.beacons[k]? = some b →
    exec .wspace s = .next { s with
      beacons := s.beacons.set k { b with key := false, cmdPause := 5#8 }
      turn := s.turnAfter k }

/-- 42 R257: `key <- 0; idle <- 1; cur <- none; return`. That `pwr` is kept is the spec's decision D12, the default of
the switch `END_CLEARS_PWR` (log 14); with the switch on it becomes 0. -/
def Obligations.EndMessageEffect : Prop :=
  ∀ (s : State) (k : Nat) (b : Beacon), s.turn = .interpret k → s.beacons[k]? = some b →
    exec .endMsg s = .next { s with
      beacons := s.beacons.set k { b with
        key := false, idle := true, cur := none, pwr := if s.params.endClearsPwr then 0#2 else b.pwr }
      turn := s.turnAfter k }

/-- 42 R258: an unknown Control Byte, in any of its eight rows, does exactly what END does, and nothing records it. That
`pwr` is kept is decision D12; that the switch `END_CLEARS_PWR` applies here too is the model's choice (log 14). -/
def Obligations.UnknownByteEndsMessage : Prop :=
  ∀ (s : State) (k : Nat) (b : Beacon) (i : Instr),
    ((∃ x, i = .unk04 x) ∨ (∃ x, i = .unk08 x) ∨ (∃ x, i = .unk30 x) ∨ (∃ x, i = .unk40 x) ∨ (∃ x, i = .unk60 x) ∨
      (∃ x, i = .unk70 x) ∨ (∃ x, i = .unk78 x) ∨ ∃ x, i = .unk7C x) →
    s.turn = .interpret k → s.beacons[k]? = some b →
    exec i s = exec .endMsg s ∧
    exec i s = .next { s with
      beacons := s.beacons.set k { b with
        key := false, idle := true, cur := none, pwr := if s.params.endClearsPwr then 0#2 else b.pwr }
      turn := s.turnAfter k }

/-- 43 R286, which is the spec's own decision D14 (log 9): a reserved Symbol byte ends the message. R286 does not write
`pwr` (decision D12); that the switch `END_CLEARS_PWR` applies here too is the model's choice (log 14). -/
def Obligations.ReservedSymbolEndsMessage : Prop :=
  ∀ (s : State) (k : Nat) (b : Beacon) (i : Instr), (i = .rsvsym0 ∨ i = .rsvsym1) →
    s.turn = .interpret k → s.beacons[k]? = some b →
    exec i s = .next { s with
      beacons := s.beacons.set k { b with
        key := false, idle := true, cur := none, pwr := if s.params.endClearsPwr then 0#2 else b.pwr }
      turn := s.turnAfter k }

/-- 43 R281, closed form, for the Symbols of every length: with `v` the byte, `k` its filler length and `n = 7 - k`,
`shreg <- (v << (k + 2)) & 0xFF; bitPos <- n - 1; key <- 1; onPause <- 3` if `v[n-1]` is 1, else 1; the tick ends. -/
def Obligations.SymbolEffect : Prop :=
  ∀ (s : State) (k : Nat) (b : Beacon) (i : Instr),
    ((∃ x, i = .sym6 x) ∨ (∃ x, i = .sym5 x) ∨ (∃ x, i = .sym4 x) ∨ (∃ x, i = .sym3 x) ∨ (∃ x, i = .sym2 x) ∨
      ∃ x, i = .sym1 x) →
    s.turn = .interpret k → s.beacons[k]? = some b →
    exec i s = .next { s with
      beacons := s.beacons.set k { b with
        shreg := encode i <<< (fillerLength (encode i) + 2)
        bitPos := BitVec.ofNat 3 (7 - fillerLength (encode i) - 1)
        key := true
        onPause := if (encode i).getLsbD (7 - fillerLength (encode i) - 1) then 3#2 else 1#2 }
      turn := s.turnAfter k }

/-- 42 R246: the byte rule that a byte's ranges select is what its decoded instruction does. The right-hand side is the
model's second transcription (log 26): R246's ranges and the stripping loop of 43 R281, with the spec's decisions D9
(log 10) and D14 (log 9), and the switch `END_CLEARS_PWR` on every end-of-message reaction, the model's choice (log 14). -/
def Obligations.ByteRuleSelection : Prop :=
  ∀ (s : State) (k : Nat) (b : Beacon) (v : Byte), s.turn = .interpret k → s.beacons[k]? = some b →
    exec (decodeByte v) s = .next { s with
      beacons := s.beacons.set k (b.byteRule s.params v).1
      turn := if (b.byteRule s.params v).2 = .cont then .interpret k else s.turnAfter k }

/-- 42 R245, 20 R62: in the interpret phase of a beacon the byte at its program counter is decoded and executed. -/
def Obligations.StepRunsDecodedByte : Prop :=
  ∀ (s : State) (k : Nat) (b : Beacon) (h : Handle) (i : Instr), s.turn = .interpret k → s.beacons[k]? = some b →
    b.cur = some h → h < s.params.nBuffers → decode [msgRead s.params s.mem h b.bytePos] = .ok (i, []) →
    step s = exec i s

/-- 20 R66, which is the spec's own decision D15 (log 11): past the end of the buffer the machine runs END, whatever
memory holds. -/
def Obligations.FetchPastEndRunsEnd : Prop :=
  ∀ (s : State) (k : Nat) (b : Beacon) (h : Handle), s.turn = .interpret k → s.beacons[k]? = some b →
    b.cur = some h → h < s.params.nBuffers → s.params.msgCapacity ≤ b.bytePos → step s = exec .endMsg s

/-! ## The other phases of a tick (42 R241 to R244, 43 R282 to R285) -/

/-- 42 R241: the tick of a disabled transmitter changes nothing, as a step and as a whole tick. -/
def Obligations.DisabledTickChangesNothing : Prop :=
  ∀ (s : State) (k : Nat) (b : Beacon), s.turn = .tick k → s.beacons[k]? = some b → b.enabled = false →
    step s = .next { s with turn := s.turnAfter k } ∧ b.tick s.params s.mem = b

/-- 42 R242, with the spec's decision D6 for the same tick (log 12): an idle transmitter with nothing pending stays as
it is; one with a message pending adopts it and interprets its byte 0 in the same tick. -/
def Obligations.IdleTickAndAdoption : Prop :=
  ∀ (s : State) (k : Nat) (b : Beacon), s.turn = .tick k → s.beacons[k]? = some b → b.enabled = true →
    b.idle = true →
    (b.next = none → step s = .next { s with turn := s.turnAfter k }) ∧
    ∀ h, b.next = some h → b.counting = false →
      step s = .next { s with
        beacons := s.beacons.set k { b with cur := some h, next := none, bytePos := 0, bitPos := 7#3, idle := false }
        turn := .interpret k }

/-- 42 R244: a running hold counts down; the key is not written. At zero the byte position advances and the next byte is
due, in the same tick by the spec's decision D7, in the next one under the switch `BOUNDARY_EXTRA_TICK` (log 13). -/
def Obligations.HoldCountdown : Prop :=
  ∀ (s : State) (k : Nat) (b : Beacon), s.turn = .tick k → s.beacons[k]? = some b → b.enabled = true →
    b.idle = false → b.cmdPause ≠ 0#8 →
    step s = .next (if b.cmdPause = 1#8
      then { s with
        beacons := s.beacons.set k { b with cmdPause := 0#8, bytePos := b.bytePos + 1, bitPos := 7#3 }
        turn := if s.params.boundaryExtraTick then s.turnAfter k else .interpret k }
      else { s with beacons := s.beacons.set k { b with cmdPause := b.cmdPause - 1#8 }, turn := s.turnAfter k })

/-- 43 R282: the on phase of an element counts down; at zero the key goes off and the gap starts, 3 ticks after the last
element of the Symbol, 1 tick after any other. -/
def Obligations.OnPhaseCountdown : Prop :=
  ∀ (s : State) (k : Nat) (b : Beacon), s.turn = .tick k → s.beacons[k]? = some b → b.enabled = true →
    b.idle = false → b.cmdPause = 0#8 → b.onPause ≠ 0#2 →
    step s = .next { s with
      beacons := s.beacons.set k (if b.onPause = 1#2
        then { b with onPause := 0#2, key := false, offPause := if b.bitPos = 0#3 then 3#2 else 1#2 }
        else { b with onPause := b.onPause - 1#2 })
      turn := s.turnAfter k }

/-- 43 R284: at the end of a gap with elements left, the next element starts. -/
def Obligations.NextElementStarts : Prop :=
  ∀ (s : State) (k : Nat) (b : Beacon), s.turn = .tick k → s.beacons[k]? = some b → b.enabled = true →
    b.idle = false → b.cmdPause = 0#8 → b.onPause = 0#2 → b.offPause = 1#2 → b.bitPos ≠ 0#3 →
    step s = .next { s with
      beacons := s.beacons.set k { b with
        offPause := 0#2, shreg := b.shreg <<< 1, bitPos := b.bitPos - 1#3, key := true
        onPause := if b.shreg.getLsbD 7 then 3#2 else 1#2 }
      turn := s.turnAfter k }

/-- 43 R283 and R285: a gap counts down, and at the end of a Symbol's last gap the byte position advances and the next
byte is due, in the same tick by the spec's decision D7, in the next one under the switch `BOUNDARY_EXTRA_TICK`
(log 13). -/
def Obligations.GapCountdownAndSymbolEnd : Prop :=
  ∀ (s : State) (k : Nat) (b : Beacon), s.turn = .tick k → s.beacons[k]? = some b → b.enabled = true →
    b.idle = false → b.cmdPause = 0#8 → b.onPause = 0#2 → b.offPause ≠ 0#2 →
    (b.offPause ≠ 1#2 →
      step s = .next { s with
        beacons := s.beacons.set k { b with offPause := b.offPause - 1#2 }, turn := s.turnAfter k }) ∧
    (b.offPause = 1#2 → b.bitPos = 0#3 →
      step s = .next { s with
        beacons := s.beacons.set k { b with offPause := 0#2, bytePos := b.bytePos + 1, bitPos := 7#3 }
        turn := if s.params.boundaryExtraTick then s.turnAfter k else .interpret k })

/-! ## The whole tick and the array (42 R247, 45 R320 to R322) -/

/-- 42 R247, 20 R66 (decision D15): from a byte position within the buffer, `MSG_CAPACITY + 1` bytes are enough for the
loop of a tick: allowing more changes nothing. -/
def Obligations.TickInterpretsBoundedBytes : Prop :=
  ∀ (p : Params) (m : Memory) (b : Beacon) (h : Handle) (extra : Nat), b.cur = some h → h < p.nBuffers →
    b.bytePos ≤ p.msgCapacity →
    b.interpretLoop p m (p.msgCapacity + 1 + extra) = b.interpretLoop p m (p.msgCapacity + 1)

/-- 45 R321 (log 4, log 5): with no host operation pending, or with a `cycle` event first, a step begins a cycle with
the first beacon's tick. -/
def Obligations.CycleBegins : Prop :=
  ∀ s : State, s.turn = .host → s.beacons ≠ [] →
    (s.events = [] → step s = .next { s with turn := .tick 0 }) ∧
    ∀ es, s.events = .cycle :: es → step s = .next { s.takeEvent es with turn := .tick 0 }

/-- 45 R321, 42 R240, R247: the steps of a cycle add up to `cycle()`: every transmitter ticked once as one atomic
operation, within `MSG_CAPACITY + 2` steps for each. The whole tick is the model's second transcription (log 26). -/
def Obligations.CycleRefinesTick : Prop :=
  ∀ s : State, s.Inv → s.turn = .host →
    ∃ n, n ≤ s.beacons.length * (s.params.msgCapacity + 2) ∧ Host.Core.run core n s.beginCycle = .next s.cycle

/-- 45 R322: ticking the transmitters one after another gives the same state in every order of the indexes. -/
def Obligations.CycleOrderIrrelevant : Prop :=
  ∀ (s : State) (l : List Nat), l.Perm (List.range s.beacons.length) → l.foldl State.tickOne s = s.cycle

/-- 10 R22, 45 R320: a step inside beacon `k`'s tick changes that beacon and the turn, and nothing else. -/
def Obligations.TickChangesOnlyItsBeacon : Prop :=
  ∀ (s t : State) (k : Nat), (s.turn = .tick k ∨ s.turn = .interpret k) → step s = .next t →
    (∀ j, j ≠ k → t.beacons[j]? = s.beacons[j]?) ∧ t.beacons.length = s.beacons.length ∧
    (∀ a, t.mem.read a = s.mem.read a) ∧
    t = { s with beacons := t.beacons, turn := t.turn }

/-- 10 R22, 45 R320, R327: what beacon `k` becomes in its tick depends on itself, the parameters and message memory
only: two arrays that agree on these agree on it afterwards. -/
def Obligations.TransmitterReadsOnlyItself : Prop :=
  ∀ (s s' t t' : State) (k : Nat), (s.turn = .tick k ∨ s.turn = .interpret k) → s'.turn = s.turn →
    s'.params = s.params → s'.mem = s.mem → s'.beacons[k]? = s.beacons[k]? → step s = .next t → step s' = .next t' →
    t'.beacons[k]? = t.beacons[k]?

/-! ## Timing in ticks (42 R261, 43 R287, R289, 70 R393), of the whole tick (log 26) -/

/-- 43 R287 (derived in the spec, on decision D7, log 13): from the tick that interprets a Symbol, the key follows the closed
form; after the Symbol's duration the next byte is interpreted with the carrier off. -/
def Obligations.SymbolWaveform : Prop :=
  ∀ (p : Params) (m : Memory) (b : Beacon) (v : Byte), p.boundaryExtraTick = false → b.atByte p →
    b.fetch p m = .ok v → isSymbol v = true →
    (∀ u < symbolTicks (unpack v),
      (Beacon.afterTicks p m u (b.interpretLoop p m (p.msgCapacity + 1))).key = keyAfter (unpack v) u ∧
      (Beacon.afterTicks p m u (b.interpretLoop p m (p.msgCapacity + 1))).bytePos = b.bytePos) ∧
    Beacon.afterTicks p m (symbolTicks (unpack v)) (b.interpretLoop p m (p.msgCapacity + 1)) =
      Beacon.interpretLoop p m (p.msgCapacity + 1) { b with key := false, shreg := 0#8, bytePos := b.bytePos + 1 }

/-- 42 R261 (derived in the spec, on decision D7, log 13): a hold of code `d >= 1` keeps the key at its level for `16 * d` ticks
while `cmdPause` counts down from `16 * d`, and then the next byte is interpreted. -/
def Obligations.HoldDuration : Prop :=
  ∀ (p : Params) (m : Memory) (b : Beacon) (v : Byte), p.boundaryExtraTick = false → b.atByte p →
    b.fetch p m = .ok v → ((0x11#8 ≤ v ∧ v ≤ 0x1F#8) ∨ (0x21#8 ≤ v ∧ v ≤ 0x2F#8)) →
    (∀ u < 16 * (v.toNat % 16),
      (Beacon.afterTicks p m u (b.interpretLoop p m (p.msgCapacity + 1))).key = decide (v ≤ 0x1F#8) ∧
      (Beacon.afterTicks p m u (b.interpretLoop p m (p.msgCapacity + 1))).cmdPause.toNat = 16 * (v.toNat % 16) - u) ∧
    Beacon.afterTicks p m (16 * (v.toNat % 16)) (b.interpretLoop p m (p.msgCapacity + 1)) =
      Beacon.interpretLoop p m (p.msgCapacity + 1) { b with key := decide (v ≤ 0x1F#8), bytePos := b.bytePos + 1 }

/-- 70 R393 (derived in the spec, on decisions D6, log 12, and D7, log 13): a pending message whose first terminating byte is at offset `n`
is adopted at tick 1 and ends at tick `1 + sum of D[j]`, `j < n`, and not before. That a reserved Symbol terminates is
decision D14 (R286, log 9), that the end of the buffer does (`n = MSG_CAPACITY`) is D15 (R66, log 11), and that a
zero-duration hold costs nothing is D9 (R253, log 10). -/
def Obligations.MessageDuration : Prop :=
  ∀ (p : Params) (m : Memory) (b : Beacon) (h : Handle) (n : Nat), p.boundaryExtraTick = false →
    b.enabled = true → b.idle = true → b.counting = false → b.next = some h → h < p.nBuffers → n ≤ p.msgCapacity →
    (∀ j < n, endsMessage (msgRead p m h j) = false) → endsMessage (msgRead p m h n) = true →
    (∀ u, 1 ≤ u → u < 1 + ((List.range n).map fun j => byteTicks (msgRead p m h j)).sum →
      (Beacon.afterTicks p m u b).idle = false ∧ (Beacon.afterTicks p m u b).cur = some h) ∧
    (Beacon.afterTicks p m (1 + ((List.range n).map fun j => byteTicks (msgRead p m h j)).sum) b).idle = true ∧
    (Beacon.afterTicks p m (1 + ((List.range n).map fun j => byteTicks (msgRead p m h j)).sum) b).cur = none ∧
    (Beacon.afterTicks p m (1 + ((List.range n).map fun j => byteTicks (msgRead p m h j)).sum) b).key = false ∧
    (Beacon.afterTicks p m (1 + ((List.range n).map fun j => byteTicks (msgRead p m h j)).sum) b).bytePos = n

/-- 43 R289 (derived in the spec, on decisions D6, log 12, and D7, log 13), a worked example: the single dot. Carrier on
after tick 1 only; done after tick 5 and not before. -/
def Obligations.SingleDotMessage : Prop :=
  ∀ (p : Params) (m : Memory) (h : Handle), p.boundaryExtraTick = false → 2 ≤ p.msgCapacity → h < p.nBuffers →
    msgRead p m h 0 = 0xFC#8 → msgRead p m h 1 = 0x7F#8 →
    ([1, 2, 3, 4, 5].map fun n => (Beacon.afterTicks p m n { Beacon.reset p with enabled := true, next := some h }).key) =
      [true, false, false, false, false] ∧
    ([1, 2, 3, 4, 5].map fun n =>
        (Beacon.afterTicks p m n { Beacon.reset p with enabled := true, next := some h }).isDone) =
      [false, false, false, false, true]

/-! ## The host's operations (44, 45, 20 R61, R72, 70 R371). `takeEvent` takes the operation off the list and settles
the loans (log 5, log 7) -/

/-- 44 R301, 45 R323, with the loan of 20 R72 noted (log 7): `next <- h` on that beacon, in every state of it. -/
def Obligations.SetNextMessageInstalls : Prop :=
  ∀ (s : State) (i : Nat) (h : Handle) (es : List Event) (b : Beacon), s.turn = .host →
    s.events = .setNextMessage i (some h) :: es → s.beacons[i]? = some b → h < s.params.nBuffers →
    (s.takeEvent es).heldElsewhere i h = false →
    step s = .next { s.takeEvent es with
      beacons := s.beacons.set i { b with next := some h }
      loans := (i, h) :: (s.takeEvent es).loans
      reply := none }

/-- 44 R302: `isDone` answers `enabled == 0 OR (idle == 1 AND next == none)`. That it writes no transmitter and no byte is
the spec's decision D31; that the loans of transmitters that are done end here is the model's choice (log 7). -/
def Obligations.IsDoneAnswers : Prop :=
  ∀ (s : State) (i : Nat) (es : List Event) (b : Beacon), s.turn = .host → s.events = .isDone i :: es →
    s.beacons[i]? = some b →
    step s = .next { s.takeEvent es with
      reply := some (.done (!b.enabled || (b.idle && b.next.isNone))) }

/-- 44 R303: enabling writes `enabled` only. -/
def Obligations.EnableEffect : Prop :=
  ∀ (s : State) (i : Nat) (es : List Event) (b : Beacon), s.turn = .host → s.events = .setEnabled i true :: es →
    s.beacons[i]? = some b →
    step s = .next { s.takeEvent es with
      beacons := s.beacons.set i { b with enabled := true }, reply := none }

/-- 44 R304: disabling forces the outputs off at once and forgets the message. That `next` survives is the spec's
decision D17, the default of the switch `DISABLE_CLEARS_NEXT` (log 15). -/
def Obligations.DisableEffect : Prop :=
  ∀ (s : State) (i : Nat) (es : List Event) (b : Beacon), s.turn = .host → s.events = .setEnabled i false :: es →
    s.beacons[i]? = some b →
    step s = .next { s.takeEvent es with
      beacons := s.beacons.set i { b with
        enabled := false, key := false, pwr := 0#2, idle := true, cur := none
        cmdPause := 0#8, onPause := 0#2, offPause := 0#2
        next := if s.params.disableClearsNext then none else b.next }
      reply := none }

/-- 44 R305 (derived in the spec): after a disable and an enable with nothing pending, no number of ticks changes the
transmitter: the interrupted message is gone. -/
def Obligations.DisableForgetsMessage : Prop :=
  ∀ (p : Params) (m : Memory) (b : Beacon) (n : Nat), b.next = none →
    Beacon.afterTicks p m n (b.disable p).enable = (b.disable p).enable ∧
    (b.disable p).enable.key = false ∧ (b.disable p).enable.pwr = 0#2 ∧ (b.disable p).enable.isDone = true

/-- 45 R324, with the spec's decision D24: a hand-off is installed when the beacon is done and turned down when it is
not. -/
def Obligations.HandoffGate : Prop :=
  ∀ (s : State) (i : Nat) (h : Handle) (es : List Event) (b : Beacon), s.turn = .host →
    s.events = .handoff i (some h) :: es → s.beacons[i]? = some b → h < s.params.nBuffers →
    (b.isDone = true → (s.takeEvent es).heldElsewhere i h = false →
      step s = .next { s.takeEvent es with
        beacons := s.beacons.set i { b with next := some h }
        loans := (i, h) :: (s.takeEvent es).loans
        reply := some (.accepted true) }) ∧
    (b.isDone = false →
      step s = .next { s.takeEvent es with reply := some (.accepted false) })

/-- 45 R323 and 44 R301: an index out of range, no handle and a handle of no buffer are refused. -/
def Obligations.OutsideInterfaceRefused : Prop :=
  ∀ (s : State) (i : Nat) (o : Option Handle) (on : Bool) (es : List Event), s.turn = .host →
    (s.beacons.length ≤ i →
      (s.events = .setNextMessage i o :: es ∨ s.events = .handoff i o :: es ∨ s.events = .isDone i :: es ∨
        s.events = .setEnabled i on :: es) → step s = .refused .badIndex) ∧
    (i < s.beacons.length → (s.events = .setNextMessage i o :: es ∨ s.events = .handoff i o :: es) →
      (o = none → step s = .refused .noHandle) ∧
      ∀ h, o = some h → s.params.nBuffers ≤ h → step s = .refused .noSuchBuffer)

/-- 20 R61, R72: the host writes a byte of a buffer that no transmitter holds; it reads back, and every other byte reads
as before. -/
def Obligations.HostWriteEffect : Prop :=
  ∀ (s : State) (h : Handle) (pos : Nat) (v : Byte) (es : List Event), s.turn = .host →
    s.events = .writeByte h pos v :: es → h < s.params.nBuffers → pos < s.params.msgCapacity → s.mem.wf = true →
    (s.takeEvent es).lent h = false →
    ∃ mem', step s = .next { s.takeEvent es with mem := mem', reply := none } ∧
      mem'.wf = true ∧ Memory.read mem' (cellAddr s.params h pos) = v ∧
      ∀ a, a ≠ cellAddr s.params h pos → Memory.read mem' a = s.mem.read a

/-- 20 R72, 70 R388, R390 (log 7): while beacon `k` is not done and has buffer `h`, a write to `h` and giving `h` to
another beacon are refused. -/
def Obligations.HeldBufferRefused : Prop :=
  ∀ (s : State) (k i pos cap : Nat) (h : Handle) (v : Byte) (text : List Byte) (e : Sensors) (es : List Event)
    (b c : Beacon), s.turn = .host → s.beacons[k]? = some b → b.isDone = false →
    (b.cur = some h ∨ b.next = some h ∨ (k, h) ∈ s.loans) → h < s.params.nBuffers →
    (s.events = .writeByte h pos v :: es → pos < s.params.msgCapacity → step s = .refused .bufferLent) ∧
    (s.events = .encodeMessage h cap text e :: es → 1 ≤ cap → cap ≤ s.params.msgCapacity →
      step s = .refused .bufferLent) ∧
    (i ≠ k → s.beacons[i]? = some c →
      (s.events = .setNextMessage i (some h) :: es → step s = .refused .handleShared) ∧
      (s.events = .handoff i (some h) :: es → c.isDone = true → step s = .refused .handleShared))

/-- 20 R72 (log 7): no step changes a byte of a buffer that a transmitter which is not done has as its current or its
pending message, or was handed since it was last done (a handle overwritten in `next` among them). -/
def Obligations.HeldBufferStable : Prop :=
  ∀ (s t : State) (k : Nat) (b : Beacon) (h : Handle), s.Inv → step s = .next t → s.beacons[k]? = some b →
    b.isDone = false → (b.cur = some h ∨ b.next = some h ∨ (k, h) ∈ s.loans) →
    ∀ pos, msgRead t.params t.mem h pos = msgRead s.params s.mem h pos

/-- 20 R61: CORE has no write path to message memory: only the host's own writes change it. -/
def Obligations.MemoryChangedByHostOnly : Prop :=
  ∀ s t : State, step s = .next t → t.mem ≠ s.mem →
    s.turn = .host ∧ ∃ es, (∃ h pos v, s.events = .writeByte h pos v :: es) ∨
      ∃ h cap text e, s.events = .encodeMessage h cap text e :: es

/-- 70 R371 (decision D16): the reset state of every transmitter, for every choice of the parameters, and the two views
of it the host has. -/
def Obligations.ResetState : Prop :=
  ∀ p : Params, (State.resetWith p).beacons.length = p.nBeacons ∧
    ∀ k < p.nBeacons, (State.resetWith p).beacons[k]? = some
        { cur := none, bytePos := 0, bitPos := 7#3, shreg := 0#8, cmdPause := 0#8, onPause := 0#2, offPause := 0#2
          idle := true, enabled := p.resetEnabled, next := none, key := false, pwr := 0#2 } ∧
      (Beacon.reset p).isDone = true ∧ (Beacon.reset p).keyN = true

/-- 70 R373: reset asserted in any state between operations gives every transmitter its reset state. Message memory, the
diagnostic and the operations still pending stay (log 24). -/
def Obligations.ResetFromAnyState : Prop :=
  ∀ (s : State) (es : List Event), s.turn = .host → s.events = .reset :: es →
    step s = .next { s with
      beacons := s.beacons.map (fun _ => Beacon.reset s.params)
      events := es, reply := none, loans := [] }

/-- 70 R372 (derived in the spec): reset leaves every transmitter idle with nothing pending, the carrier off and power
mode 0 (and the turn the host's, log 8); from every state with all transmitters idle and nothing pending, no step but a hand-over changes that or fetches
a byte, the carrier and the power mode stay off, and a step that performs no host operation leaves every transmitter as
it was. -/
def Obligations.QuietUntilHandOver : Prop :=
  (∀ p : Params, (State.resetWith p).turn = .host ∧
    ∀ b ∈ (State.resetWith p).beacons, b.idle = true ∧ b.next = none ∧ b.key = false ∧ b.pwr = 0#2) ∧
  ∀ s t : State, (∀ k, s.turn ≠ .interpret k) → (∀ b ∈ s.beacons, b.idle = true ∧ b.next = none) →
    (s.turn = .host → ∀ i o es, s.events ≠ .setNextMessage i o :: es ∧ s.events ≠ .handoff i o :: es) →
    step s = .next t →
    (∀ k, t.turn ≠ .interpret k) ∧ (∀ b ∈ t.beacons, b.idle = true ∧ b.next = none) ∧
    ((∀ b ∈ s.beacons, b.key = false ∧ b.pwr = 0#2) → ∀ b ∈ t.beacons, b.key = false ∧ b.pwr = 0#2) ∧
    ((s.turn = .host → s.events = [] ∨ ∃ es, s.events = .cycle :: es) → t.beacons = s.beacons)

/-! ## The encoders (40, 41) -/

/-- 40 R122: the two cases of a letter give the same byte, a Symbol of 1 to 4 elements, whatever the extras. -/
def Obligations.LetterCaseIrrelevant : Prop :=
  ∀ (extra : List (Byte × Byte)) (c : Byte), isLetter c = true →
    encodeChar extra (c ^^^ 0x20#8) = encodeChar extra c ∧
    0xE0#8 ≤ encodeChar extra c ∧ encodeChar extra c ≤ 0xFD#8

/-- 40 R130 to R171, R176: the bytes of the digits, of the letters in both cases and of the fixed punctuation, for every
list of extras; they are Symbols that decode to the characters' Morse patterns, and so does an extra, the hyphen among
them. The patterns are general knowledge (log 17). -/
def Obligations.CharacterDecodingLaw : Prop :=
  (∀ extra : List (Byte × Byte),
    ((List.range 10).map fun n => encodeChar extra (BitVec.ofNat 8 (0x30 + n))) =
      [0xDF#8, 0xCF#8, 0xC7#8, 0xC3#8, 0xC1#8, 0xC0#8, 0xD0#8, 0xD8#8, 0xDC#8, 0xDE#8] ∧
    (∀ base ∈ [0x41, 0x61], ((List.range 26).map fun n => encodeChar extra (BitVec.ofNat 8 (base + n))) =
      [0xF9#8, 0xE8#8, 0xEA#8, 0xF4#8, 0xFC#8, 0xE2#8, 0xF6#8, 0xE0#8, 0xF8#8, 0xE7#8, 0xF5#8, 0xE4#8, 0xFB#8,
       0xFA#8, 0xF7#8, 0xE6#8, 0xED#8, 0xF2#8, 0xF0#8, 0xFD#8, 0xF1#8, 0xE1#8, 0xF3#8, 0xE9#8, 0xEB#8, 0xEC#8]) ∧
    ([0x3D#8, 0x3F#8, 0x2F#8, 0x2E#8, 0x2C#8].map (encodeChar extra)) = [0xD1#8, 0x8C#8, 0xD2#8, 0x95#8, 0xB3#8] ∧
    ∀ (c : Byte) (pat : List Element), morsePattern c = some pat →
      unpack (encodeChar extra c) = pat ∧ isSymbol (encodeChar extra c) = true) ∧
  (∀ (p : Params) (c : Byte) (pat : List Element), p.wf = true → 1 ≤ pat.length → pat.length ≤ 6 →
    p.extraPunct.lookup c = some (pack pat) →
      unpack (encodeChar p.extraPunct c) = pat ∧ isSymbol (encodeChar p.extraPunct c) = true) ∧
  encodeChar Params.chosen.extraPunct 0x2D#8 = 0xA1#8 ∧ unpack 0xA1#8 = [.dash, .dot, .dot, .dot, .dot, .dash]

/-- 40 R124 to R127, R175: with admissible extras, the output is a Symbol, or 0x7E exactly for the space, or 0x7F exactly
for the null character, or 0; and an extra gives its mapped byte. -/
def Obligations.CharacterOutputForms : Prop :=
  ∀ (p : Params) (c : Byte), p.wf = true →
    (encodeChar p.extraPunct c = 0x7E#8 ↔ c = 0x20#8) ∧ (encodeChar p.extraPunct c = 0x7F#8 ↔ c = 0x00#8) ∧
    (isSymbol (encodeChar p.extraPunct c) = true ∨ encodeChar p.extraPunct c = 0x7E#8 ∨
      encodeChar p.extraPunct c = 0x7F#8 ∨ encodeChar p.extraPunct c = 0x00#8) ∧
    encodeChar p.extraPunct 0x21#8 = 0x00#8 ∧
    ∀ v, p.extraPunct.lookup c = some v → encodeChar p.extraPunct c = v

/-- 41 R205, R213, R214: a text of encodable plain characters that fits below the capacity encodes to its characters'
bytes and the terminator; one that does not fit fails as too small at the first character without room. -/
def Obligations.PlainTextEncodes : Prop :=
  ∀ (extra : List (Byte × Byte)) (e : Sensors) (cap : Nat) (text : List Byte), 1 ≤ cap →
    (∀ c ∈ text, c ≠ 0x24#8 ∧ c ≠ 0x00#8 ∧ encodeChar extra c ≠ 0x00#8) →
    (text.length < cap → encodeMessage extra e cap text = ⟨text.map (encodeChar extra) ++ [0x7F#8], none⟩) ∧
    (cap ≤ text.length → (encodeMessage extra e cap text).error = some ⟨.bufferTooSmall, cap - 1⟩ ∧
      (encodeMessage extra e cap text).bytes.head? = some 0x7F#8)

/-- 41 R206, R210, R211: the one-byte directives, for the digits they take, and the errors for those they do not. -/
def Obligations.DirectivesEncode : Prop :=
  ∀ (extra : List (Byte × Byte)) (e : Sensors) (cap d : Nat), 2 ≤ cap → d ≤ 9 →
    (encodeMessage extra e cap [0x24#8, 0x50#8, BitVec.ofNat 8 (0x30 + d)] =
      if d ≤ 3 then ⟨[BitVec.ofNat 8 d, 0x7F#8], none⟩ else ⟨[0x7F#8], some ⟨.powerMode, 0⟩⟩) ∧
    (encodeMessage extra e cap [0x24#8, 0x2B#8, BitVec.ofNat 8 (0x30 + d)] =
      if d = 0 then ⟨[0x7F#8], some ⟨.outOfRangeDigit, 0⟩⟩ else ⟨[BitVec.ofNat 8 (0x10 + d), 0x7F#8], none⟩) ∧
    (encodeMessage extra e cap [0x24#8, 0x2D#8, BitVec.ofNat 8 (0x30 + d)] =
      if d = 0 then ⟨[0x7F#8], some ⟨.outOfRangeDigit, 0⟩⟩ else ⟨[BitVec.ofNat 8 (0x20 + d), 0x7F#8], none⟩)

/-- 41 R202, R203, R214, R215, R218 (derived in the spec): whatever the text and the formatters answer, the call answers,
also for a sensor text longer than its promise (a free text stands for it, log 28); success leaves an
admissible Compiled Message within the capacity and clears the diagnostic, failure leaves END at position 0; no byte
outside the given part of the buffer and no transmitter changes. -/
def Obligations.EncodeLeavesCompiledMessage : Prop :=
  ∀ (s : State) (h : Handle) (cap : Nat) (text : List Byte) (e : Sensors) (es : List Event), s.params.wf = true →
    s.mem.wf = true → s.turn = .host → s.events = .encodeMessage h cap text e :: es → h < s.params.nBuffers →
    1 ≤ cap → cap ≤ s.params.msgCapacity → (s.takeEvent es).lent h = false →
    ∃ t, step s = .next t ∧ t.reply = some (.encoded t.diag.isNone) ∧
      (t.diag = none → ∃ n < cap, msgRead t.params t.mem h n = 0x7F#8 ∧
        ∀ j < n, encoderByte t.params.extraPunct (msgRead t.params t.mem h j)) ∧
      (t.diag ≠ none → msgRead t.params t.mem h 0 = 0x7F#8) ∧
      (∀ a, (a < cellAddr s.params h 0 ∨ cellAddr s.params h 0 + cap ≤ a) → t.mem.read a = s.mem.read a) ∧
      t = { s.takeEvent es with mem := t.mem, diag := t.diag, reply := t.reply }

/-- 40 R120, 41 R203: the host's two questions to the encoders answer and change no transmitter and no byte; the
diagnostic's wording is a free value (log 18), the empty text means no error. -/
def Obligations.EncoderQuestionsAnswer : Prop :=
  ∀ (s : State) (c : Byte) (es : List Event), s.turn = .host →
    (s.events = .encodeChar c :: es → step s = .next { s.takeEvent es with
      reply := some (.symbol (encodeChar s.params.extraPunct c)) }) ∧
    (s.events = .getLastEncodeError :: es → step s = .next { s.takeEvent es with
      reply := some (.diagnostic (diagnosticText s.diag)) }) ∧
    (diagnosticText s.diag = [] ↔ s.diag = none)

/-! ## The whole machine -/

/-- 70 R371, 10 R23, R30: the invariant holds right after reset, for every admissible choice of the parameters. -/
def Obligations.InvariantAtReset : Prop := ∀ p : Params, p.wf = true → (State.resetWith p).Inv

/-- 10 R23, R24, R30 (derived in the spec), 20 R60: every step keeps the invariant, from every state that has it. Where
R30 has one nonzero counter in an active transmitter, the invariant also admits, with `BOUNDARY_EXTRA_TICK` on, an active
one at a byte boundary with every counter zero: the model's choice (log 13). -/
def Obligations.InvariantKept : Prop := ∀ s t : State, s.Inv → step s = .next t → t.Inv

/-- 60 R340: under the invariant no step faults, and a step is refused only for a host's call. -/
def Obligations.NoFaultUnderInvariant : Prop :=
  ∀ s : State, s.Inv → (∀ f, step s ≠ .fault f) ∧
    ∀ r, step s = .refused r → s.turn = .host ∧ ∃ e es, s.events = e :: es ∧ e ≠ .cycle ∧ e ≠ .reset

/-- 10 R37, with the spec's decision D12 (log 14): only SETPWR, a disable and a reset change the power mode. -/
def Obligations.PowerModeWriters : Prop :=
  ∀ (s t : State) (k : Nat) (b b' : Beacon), s.params.endClearsPwr = false → step s = .next t →
    s.beacons[k]? = some b → t.beacons[k]? = some b' → b'.pwr ≠ b.pwr →
    (s.turn = .interpret k ∧ ∃ v, s.fetchByte k = .ok v ∧ v ≤ 0x03#8 ∧ b'.pwr = v.extractLsb' 0 2) ∨
    (s.turn = .host ∧ b'.pwr = 0#2 ∧ ∃ es, s.events = .setEnabled k false :: es ∨ s.events = .reset :: es)

/-- 10 R35: what turns the carrier on, and what turns it off. -/
def Obligations.KeyWriters : Prop :=
  ∀ (s t : State) (k : Nat) (b b' : Beacon), step s = .next t → s.beacons[k]? = some b → t.beacons[k]? = some b' →
    (b.key = false → b'.key = true →
      (s.turn = .interpret k ∧ ∃ v, s.fetchByte k = .ok v ∧ ((0x10#8 ≤ v ∧ v ≤ 0x1F#8) ∨ isSymbol v = true)) ∨
      (s.turn = .tick k ∧ b.offPause = 1#2 ∧ b'.onPause ≠ 0#2)) ∧
    (b.key = true → b'.key = false →
      (s.turn = .interpret k ∧ ∃ v, s.fetchByte k = .ok v ∧
        ((0x20#8 ≤ v ∧ v ≤ 0x2F#8) ∨ v = 0x7E#8 ∨ endsMessage v = true)) ∨
      (s.turn = .tick k ∧ b.onPause = 1#2 ∧ b'.offPause ≠ 0#2) ∨
      (s.turn = .host ∧ ∃ es, s.events = .setEnabled k false :: es ∨ s.events = .reset :: es))

/-- 42 R259, 10 R38: the program counter stays; is set to (`next`, 0) by adoption; advances by one when a hold, a space or
a Symbol expires and at a byte without timing cost; or loses its buffer at a byte that ends the message, at a disable or
at a reset (70 R371), which alone of these writes `bytePos`. No byte makes it jump. -/
def Obligations.ProgramCounterMoves : Prop :=
  ∀ (s t : State) (k : Nat) (b b' : Beacon), s.Inv → step s = .next t → s.beacons[k]? = some b →
    t.beacons[k]? = some b' →
    (b'.cur = b.cur ∧ b'.bytePos = b.bytePos) ∨
    (s.turn = .tick k ∧ b.enabled = true ∧ b.idle = true ∧ b.next ≠ none ∧
      b'.cur = b.next ∧ b'.next = none ∧ b'.bytePos = 0) ∨
    (b'.cur = b.cur ∧ b'.bytePos = b.bytePos + 1 ∧
      ((s.turn = .tick k ∧ (b.cmdPause = 1#8 ∨ (b.offPause = 1#2 ∧ b.bitPos = 0#3))) ∨
        (s.turn = .interpret k ∧ ∃ v, s.fetchByte k = .ok v ∧ (v ≤ 0x03#8 ∨ v = 0x10#8 ∨ v = 0x20#8)))) ∨
    (b'.cur = none ∧ b'.idle = true ∧
      ((s.turn = .interpret k ∧ b'.bytePos = b.bytePos ∧ ∃ v, s.fetchByte k = .ok v ∧ endsMessage v = true) ∨
        (s.turn = .host ∧ b'.bytePos = b.bytePos ∧ ∃ es, s.events = .setEnabled k false :: es) ∨
        (s.turn = .host ∧ b'.bytePos = 0 ∧ ∃ es, s.events = .reset :: es)))
end

