-- ==== Sys2Proof/Laws/Encoder.lean ====
section
/-! SUPPORT. What the Message Encoder writes never exceeds its capacity (41 R201, R208, R213). -/

namespace Sys2Proof.Machine

theorem encodeText_length (extra : List (Byte × Byte)) (t : List Byte) :
    (encodeText extra t).1.length = t.length := by
  induction t with
  | nil => rfl
  | cons c t ih =>
    unfold encodeText
    dsimp only
    split
    · rfl
    · simp [ih]

/-- A failed attempt writes at least the END at position 0 and at most what was emitted. -/
theorem encodeFailure_length {k : EncodeErrorKind} {pos cap : Nat} {out : List Byte} (h : out.length ≤ cap - 1)
    (hc : 1 ≤ cap) : (encodeFailure k pos out).bytes.length ≤ cap := by
  simp only [encodeFailure, List.length_cons, List.length_drop]
  omega

theorem cString_length_le (t : List Byte) : (cString t).length ≤ t.length := (List.takeWhile_sublist _).length_le

theorem cString_ne_null (t : List Byte) : ∀ c ∈ cString t, c ≠ 0x00#8 := by
  intro c hc
  simpa using List.mem_takeWhile_imp hc

/-- What a directive inserts fits the room that its pre-check leaves, whether or not the formatter keeps its promise. -/
theorem insertedText_length {overlong : Nat → List Byte} {room pos : Nat} {s : SensorText} (h : s.worstCase ≤ room) :
    (insertedText overlong room pos s).length ≤ room := by
  unfold insertedText
  split
  · omega
  · exact (cString_length_le _).trans (List.length_take_le _ _)

/-- An inserted text has no null character (41 R218). -/
theorem insertedText_ne_null (overlong : Nat → List Byte) (room pos : Nat) (s : SensorText) :
    ∀ c ∈ insertedText overlong room pos s, c ≠ 0x00#8 := by
  unfold insertedText
  split
  · exact cString_ne_null _
  · exact cString_ne_null _

theorem scan_length {extra : List (Byte × Byte)} {e : Sensors} {cap : Nat} (hc : 1 ≤ cap) (overlong : Nat → List Byte)
    (t : List Byte) (pos skip : Nat) (out : List Byte) (ho : out.length ≤ cap - 1) :
    (scan extra e cap overlong t pos skip out).bytes.length ≤ cap := by
  induction t generalizing pos skip out with
  | nil => simp only [scan, List.length_append, List.length_singleton]; omega
  | cons c t ih =>
    unfold scan
    split
    · exact ih _ _ _ ho
    · split
      · exact encodeFailure_length ho hc
      · split
        · exact ih _ _ _ (by simp only [List.length_append, List.length_singleton]; omega)
        · exact encodeFailure_length ho hc
      · rename_i s n hi
        split
        · exact encodeFailure_length ho hc
        · have hs := insertedText_length (overlong := overlong) (pos := pos) (s := s) (room := cap - 1 - out.length) (by omega)
          have hl := encodeText_length extra (insertedText overlong (cap - 1 - out.length) pos s)
          have hlen : (out ++ (encodeText extra (insertedText overlong (cap - 1 - out.length) pos s)).1).length ≤ cap - 1 := by
            simp only [List.length_append]; omega
          dsimp only
          split
          · exact ih _ _ _ hlen
          · exact encodeFailure_length hlen hc

/-- A call of `encodeMessage` writes at most its capacity. -/
theorem encodeMessage_length (extra : List (Byte × Byte)) (e : Sensors) {cap : Nat}
    (hc : 1 ≤ cap) (text : List Byte) : (encodeMessage extra e cap text).bytes.length ≤ cap :=
  scan_length hc _ _ _ _ _ (Nat.zero_le _)

end Sys2Proof.Machine
end

