-- ==== Sys2Proof/Laws/State.lean ====
section
/-! SUPPORT. One lemma per field per update of a transmitter and of the machine, all true by rfl: no later proof
unfolds a record update. -/

namespace Sys2Proof.Machine

variable (b : Beacon) (s : State)

/-! ### `Beacon.adopt` -/
@[simp] theorem Beacon.adopt_cur (h : Handle) : (b.adopt h).cur = some h := rfl
@[simp] theorem Beacon.adopt_bytePos (h : Handle) : (b.adopt h).bytePos = 0 := rfl
@[simp] theorem Beacon.adopt_bitPos (h : Handle) : (b.adopt h).bitPos = 7#3 := rfl
@[simp] theorem Beacon.adopt_shreg (h : Handle) : (b.adopt h).shreg = b.shreg := rfl
@[simp] theorem Beacon.adopt_cmdPause (h : Handle) : (b.adopt h).cmdPause = b.cmdPause := rfl
@[simp] theorem Beacon.adopt_onPause (h : Handle) : (b.adopt h).onPause = b.onPause := rfl
@[simp] theorem Beacon.adopt_offPause (h : Handle) : (b.adopt h).offPause = b.offPause := rfl
@[simp] theorem Beacon.adopt_idle (h : Handle) : (b.adopt h).idle = false := rfl
@[simp] theorem Beacon.adopt_enabled (h : Handle) : (b.adopt h).enabled = b.enabled := rfl
@[simp] theorem Beacon.adopt_next (h : Handle) : (b.adopt h).next = none := rfl
@[simp] theorem Beacon.adopt_key (h : Handle) : (b.adopt h).key = b.key := rfl
@[simp] theorem Beacon.adopt_pwr (h : Handle) : (b.adopt h).pwr = b.pwr := rfl

/-! ### `Beacon.advance` -/
@[simp] theorem Beacon.advance_cur : (b.advance).cur = b.cur := rfl
@[simp] theorem Beacon.advance_bytePos : (b.advance).bytePos = b.bytePos + 1 := rfl
@[simp] theorem Beacon.advance_bitPos : (b.advance).bitPos = 7#3 := rfl
@[simp] theorem Beacon.advance_shreg : (b.advance).shreg = b.shreg := rfl
@[simp] theorem Beacon.advance_cmdPause : (b.advance).cmdPause = b.cmdPause := rfl
@[simp] theorem Beacon.advance_onPause : (b.advance).onPause = b.onPause := rfl
@[simp] theorem Beacon.advance_offPause : (b.advance).offPause = b.offPause := rfl
@[simp] theorem Beacon.advance_idle : (b.advance).idle = b.idle := rfl
@[simp] theorem Beacon.advance_enabled : (b.advance).enabled = b.enabled := rfl
@[simp] theorem Beacon.advance_next : (b.advance).next = b.next := rfl
@[simp] theorem Beacon.advance_key : (b.advance).key = b.key := rfl
@[simp] theorem Beacon.advance_pwr : (b.advance).pwr = b.pwr := rfl

/-! ### `Beacon.endReaction` -/
@[simp] theorem Beacon.endReaction_cur (p : Params) : (b.endReaction p).cur = none := rfl
@[simp] theorem Beacon.endReaction_bytePos (p : Params) : (b.endReaction p).bytePos = b.bytePos := rfl
@[simp] theorem Beacon.endReaction_bitPos (p : Params) : (b.endReaction p).bitPos = b.bitPos := rfl
@[simp] theorem Beacon.endReaction_shreg (p : Params) : (b.endReaction p).shreg = b.shreg := rfl
@[simp] theorem Beacon.endReaction_cmdPause (p : Params) : (b.endReaction p).cmdPause = b.cmdPause := rfl
@[simp] theorem Beacon.endReaction_onPause (p : Params) : (b.endReaction p).onPause = b.onPause := rfl
@[simp] theorem Beacon.endReaction_offPause (p : Params) : (b.endReaction p).offPause = b.offPause := rfl
@[simp] theorem Beacon.endReaction_idle (p : Params) : (b.endReaction p).idle = true := rfl
@[simp] theorem Beacon.endReaction_enabled (p : Params) : (b.endReaction p).enabled = b.enabled := rfl
@[simp] theorem Beacon.endReaction_next (p : Params) : (b.endReaction p).next = b.next := rfl
@[simp] theorem Beacon.endReaction_key (p : Params) : (b.endReaction p).key = false := rfl
@[simp] theorem Beacon.endReaction_pwr (p : Params) : (b.endReaction p).pwr = if p.endClearsPwr then 0#2 else b.pwr := rfl

/-! ### `Beacon.startHold` -/
@[simp] theorem Beacon.startHold_cur (on : Bool) (c : BitVec 8) : (b.startHold on c).cur = b.cur := rfl
@[simp] theorem Beacon.startHold_bytePos (on : Bool) (c : BitVec 8) : (b.startHold on c).bytePos = b.bytePos := rfl
@[simp] theorem Beacon.startHold_bitPos (on : Bool) (c : BitVec 8) : (b.startHold on c).bitPos = b.bitPos := rfl
@[simp] theorem Beacon.startHold_shreg (on : Bool) (c : BitVec 8) : (b.startHold on c).shreg = b.shreg := rfl
@[simp] theorem Beacon.startHold_cmdPause (on : Bool) (c : BitVec 8) : (b.startHold on c).cmdPause = c := rfl
@[simp] theorem Beacon.startHold_onPause (on : Bool) (c : BitVec 8) : (b.startHold on c).onPause = b.onPause := rfl
@[simp] theorem Beacon.startHold_offPause (on : Bool) (c : BitVec 8) : (b.startHold on c).offPause = b.offPause := rfl
@[simp] theorem Beacon.startHold_idle (on : Bool) (c : BitVec 8) : (b.startHold on c).idle = b.idle := rfl
@[simp] theorem Beacon.startHold_enabled (on : Bool) (c : BitVec 8) : (b.startHold on c).enabled = b.enabled := rfl
@[simp] theorem Beacon.startHold_next (on : Bool) (c : BitVec 8) : (b.startHold on c).next = b.next := rfl
@[simp] theorem Beacon.startHold_key (on : Bool) (c : BitVec 8) : (b.startHold on c).key = on := rfl
@[simp] theorem Beacon.startHold_pwr (on : Bool) (c : BitVec 8) : (b.startHold on c).pwr = b.pwr := rfl

/-! ### `Beacon.zeroHold` -/
@[simp] theorem Beacon.zeroHold_cur (on : Bool) : (b.zeroHold on).cur = b.cur := rfl
@[simp] theorem Beacon.zeroHold_bytePos (on : Bool) : (b.zeroHold on).bytePos = b.bytePos + 1 := rfl
@[simp] theorem Beacon.zeroHold_bitPos (on : Bool) : (b.zeroHold on).bitPos = b.bitPos := rfl
@[simp] theorem Beacon.zeroHold_shreg (on : Bool) : (b.zeroHold on).shreg = b.shreg := rfl
@[simp] theorem Beacon.zeroHold_cmdPause (on : Bool) : (b.zeroHold on).cmdPause = b.cmdPause := rfl
@[simp] theorem Beacon.zeroHold_onPause (on : Bool) : (b.zeroHold on).onPause = b.onPause := rfl
@[simp] theorem Beacon.zeroHold_offPause (on : Bool) : (b.zeroHold on).offPause = b.offPause := rfl
@[simp] theorem Beacon.zeroHold_idle (on : Bool) : (b.zeroHold on).idle = b.idle := rfl
@[simp] theorem Beacon.zeroHold_enabled (on : Bool) : (b.zeroHold on).enabled = b.enabled := rfl
@[simp] theorem Beacon.zeroHold_next (on : Bool) : (b.zeroHold on).next = b.next := rfl
@[simp] theorem Beacon.zeroHold_key (on : Bool) : (b.zeroHold on).key = on := rfl
@[simp] theorem Beacon.zeroHold_pwr (on : Bool) : (b.zeroHold on).pwr = b.pwr := rfl

/-! ### `Beacon.setPower` -/
@[simp] theorem Beacon.setPower_cur (m : BitVec 2) : (b.setPower m).cur = b.cur := rfl
@[simp] theorem Beacon.setPower_bytePos (m : BitVec 2) : (b.setPower m).bytePos = b.bytePos + 1 := rfl
@[simp] theorem Beacon.setPower_bitPos (m : BitVec 2) : (b.setPower m).bitPos = b.bitPos := rfl
@[simp] theorem Beacon.setPower_shreg (m : BitVec 2) : (b.setPower m).shreg = b.shreg := rfl
@[simp] theorem Beacon.setPower_cmdPause (m : BitVec 2) : (b.setPower m).cmdPause = b.cmdPause := rfl
@[simp] theorem Beacon.setPower_onPause (m : BitVec 2) : (b.setPower m).onPause = b.onPause := rfl
@[simp] theorem Beacon.setPower_offPause (m : BitVec 2) : (b.setPower m).offPause = b.offPause := rfl
@[simp] theorem Beacon.setPower_idle (m : BitVec 2) : (b.setPower m).idle = b.idle := rfl
@[simp] theorem Beacon.setPower_enabled (m : BitVec 2) : (b.setPower m).enabled = b.enabled := rfl
@[simp] theorem Beacon.setPower_next (m : BitVec 2) : (b.setPower m).next = b.next := rfl
@[simp] theorem Beacon.setPower_key (m : BitVec 2) : (b.setPower m).key = b.key := rfl
@[simp] theorem Beacon.setPower_pwr (m : BitVec 2) : (b.setPower m).pwr = m := rfl

/-! ### `Beacon.startSymbol` -/
@[simp] theorem Beacon.startSymbol_cur (d : Bool) (r : Byte) (c : BitVec 3) : (b.startSymbol d r c).cur = b.cur := rfl
@[simp] theorem Beacon.startSymbol_bytePos (d : Bool) (r : Byte) (c : BitVec 3) : (b.startSymbol d r c).bytePos = b.bytePos := rfl
@[simp] theorem Beacon.startSymbol_bitPos (d : Bool) (r : Byte) (c : BitVec 3) : (b.startSymbol d r c).bitPos = c := rfl
@[simp] theorem Beacon.startSymbol_shreg (d : Bool) (r : Byte) (c : BitVec 3) : (b.startSymbol d r c).shreg = r := rfl
@[simp] theorem Beacon.startSymbol_cmdPause (d : Bool) (r : Byte) (c : BitVec 3) : (b.startSymbol d r c).cmdPause = b.cmdPause := rfl
@[simp] theorem Beacon.startSymbol_onPause (d : Bool) (r : Byte) (c : BitVec 3) : (b.startSymbol d r c).onPause = elementTicks d := rfl
@[simp] theorem Beacon.startSymbol_offPause (d : Bool) (r : Byte) (c : BitVec 3) : (b.startSymbol d r c).offPause = b.offPause := rfl
@[simp] theorem Beacon.startSymbol_idle (d : Bool) (r : Byte) (c : BitVec 3) : (b.startSymbol d r c).idle = b.idle := rfl
@[simp] theorem Beacon.startSymbol_enabled (d : Bool) (r : Byte) (c : BitVec 3) : (b.startSymbol d r c).enabled = b.enabled := rfl
@[simp] theorem Beacon.startSymbol_next (d : Bool) (r : Byte) (c : BitVec 3) : (b.startSymbol d r c).next = b.next := rfl
@[simp] theorem Beacon.startSymbol_key (d : Bool) (r : Byte) (c : BitVec 3) : (b.startSymbol d r c).key = true := rfl
@[simp] theorem Beacon.startSymbol_pwr (d : Bool) (r : Byte) (c : BitVec 3) : (b.startSymbol d r c).pwr = b.pwr := rfl

/-! ### `Beacon.nextElement` -/
@[simp] theorem Beacon.nextElement_cur : (b.nextElement).cur = b.cur := rfl
@[simp] theorem Beacon.nextElement_bytePos : (b.nextElement).bytePos = b.bytePos := rfl
@[simp] theorem Beacon.nextElement_bitPos : (b.nextElement).bitPos = b.bitPos - 1#3 := rfl
@[simp] theorem Beacon.nextElement_shreg : (b.nextElement).shreg = b.shreg <<< 1 := rfl
@[simp] theorem Beacon.nextElement_cmdPause : (b.nextElement).cmdPause = b.cmdPause := rfl
@[simp] theorem Beacon.nextElement_onPause : (b.nextElement).onPause = elementTicks b.shreg.msb := rfl
@[simp] theorem Beacon.nextElement_offPause : (b.nextElement).offPause = b.offPause := rfl
@[simp] theorem Beacon.nextElement_idle : (b.nextElement).idle = b.idle := rfl
@[simp] theorem Beacon.nextElement_enabled : (b.nextElement).enabled = b.enabled := rfl
@[simp] theorem Beacon.nextElement_next : (b.nextElement).next = b.next := rfl
@[simp] theorem Beacon.nextElement_key : (b.nextElement).key = true := rfl
@[simp] theorem Beacon.nextElement_pwr : (b.nextElement).pwr = b.pwr := rfl

/-! ### `Beacon.setNext` -/
@[simp] theorem Beacon.setNext_cur (h : Handle) : (b.setNext h).cur = b.cur := rfl
@[simp] theorem Beacon.setNext_bytePos (h : Handle) : (b.setNext h).bytePos = b.bytePos := rfl
@[simp] theorem Beacon.setNext_bitPos (h : Handle) : (b.setNext h).bitPos = b.bitPos := rfl
@[simp] theorem Beacon.setNext_shreg (h : Handle) : (b.setNext h).shreg = b.shreg := rfl
@[simp] theorem Beacon.setNext_cmdPause (h : Handle) : (b.setNext h).cmdPause = b.cmdPause := rfl
@[simp] theorem Beacon.setNext_onPause (h : Handle) : (b.setNext h).onPause = b.onPause := rfl
@[simp] theorem Beacon.setNext_offPause (h : Handle) : (b.setNext h).offPause = b.offPause := rfl
@[simp] theorem Beacon.setNext_idle (h : Handle) : (b.setNext h).idle = b.idle := rfl
@[simp] theorem Beacon.setNext_enabled (h : Handle) : (b.setNext h).enabled = b.enabled := rfl
@[simp] theorem Beacon.setNext_next (h : Handle) : (b.setNext h).next = some h := rfl
@[simp] theorem Beacon.setNext_key (h : Handle) : (b.setNext h).key = b.key := rfl
@[simp] theorem Beacon.setNext_pwr (h : Handle) : (b.setNext h).pwr = b.pwr := rfl

/-! ### `Beacon.enable` -/
@[simp] theorem Beacon.enable_cur : (b.enable).cur = b.cur := rfl
@[simp] theorem Beacon.enable_bytePos : (b.enable).bytePos = b.bytePos := rfl
@[simp] theorem Beacon.enable_bitPos : (b.enable).bitPos = b.bitPos := rfl
@[simp] theorem Beacon.enable_shreg : (b.enable).shreg = b.shreg := rfl
@[simp] theorem Beacon.enable_cmdPause : (b.enable).cmdPause = b.cmdPause := rfl
@[simp] theorem Beacon.enable_onPause : (b.enable).onPause = b.onPause := rfl
@[simp] theorem Beacon.enable_offPause : (b.enable).offPause = b.offPause := rfl
@[simp] theorem Beacon.enable_idle : (b.enable).idle = b.idle := rfl
@[simp] theorem Beacon.enable_enabled : (b.enable).enabled = true := rfl
@[simp] theorem Beacon.enable_next : (b.enable).next = b.next := rfl
@[simp] theorem Beacon.enable_key : (b.enable).key = b.key := rfl
@[simp] theorem Beacon.enable_pwr : (b.enable).pwr = b.pwr := rfl

/-! ### `Beacon.disable` -/
@[simp] theorem Beacon.disable_cur (p : Params) : (b.disable p).cur = none := rfl
@[simp] theorem Beacon.disable_bytePos (p : Params) : (b.disable p).bytePos = b.bytePos := rfl
@[simp] theorem Beacon.disable_bitPos (p : Params) : (b.disable p).bitPos = b.bitPos := rfl
@[simp] theorem Beacon.disable_shreg (p : Params) : (b.disable p).shreg = b.shreg := rfl
@[simp] theorem Beacon.disable_cmdPause (p : Params) : (b.disable p).cmdPause = 0#8 := rfl
@[simp] theorem Beacon.disable_onPause (p : Params) : (b.disable p).onPause = 0#2 := rfl
@[simp] theorem Beacon.disable_offPause (p : Params) : (b.disable p).offPause = 0#2 := rfl
@[simp] theorem Beacon.disable_idle (p : Params) : (b.disable p).idle = true := rfl
@[simp] theorem Beacon.disable_enabled (p : Params) : (b.disable p).enabled = false := rfl
@[simp] theorem Beacon.disable_next (p : Params) : (b.disable p).next = if p.disableClearsNext then none else b.next := rfl
@[simp] theorem Beacon.disable_key (p : Params) : (b.disable p).key = false := rfl
@[simp] theorem Beacon.disable_pwr (p : Params) : (b.disable p).pwr = 0#2 := rfl

/-! ### `State.beginCycle` -/
@[simp] theorem State.beginCycle_params : (s.beginCycle).params = s.params := rfl
@[simp] theorem State.beginCycle_beacons : (s.beginCycle).beacons = s.beacons := rfl
@[simp] theorem State.beginCycle_mem : (s.beginCycle).mem = s.mem := rfl
@[simp] theorem State.beginCycle_diag : (s.beginCycle).diag = s.diag := rfl
@[simp] theorem State.beginCycle_turn : (s.beginCycle).turn = if s.beacons.length = 0 then .host else .tick 0 := rfl
@[simp] theorem State.beginCycle_events : (s.beginCycle).events = s.events := rfl
@[simp] theorem State.beginCycle_reply : (s.beginCycle).reply = s.reply := rfl
@[simp] theorem State.beginCycle_loans : (s.beginCycle).loans = s.loans := rfl

/-! ### `State.assertReset` -/
@[simp] theorem State.assertReset_params : (s.assertReset).params = s.params := rfl
@[simp] theorem State.assertReset_beacons : (s.assertReset).beacons = s.beacons.map (fun _ => Beacon.reset s.params) := rfl
@[simp] theorem State.assertReset_mem : (s.assertReset).mem = s.mem := rfl
@[simp] theorem State.assertReset_diag : (s.assertReset).diag = s.diag := rfl
@[simp] theorem State.assertReset_turn : (s.assertReset).turn = s.turn := rfl
@[simp] theorem State.assertReset_events : (s.assertReset).events = s.events := rfl
@[simp] theorem State.assertReset_reply : (s.assertReset).reply = none := rfl
@[simp] theorem State.assertReset_loans : (s.assertReset).loans = [] := rfl

/-! ### `State.cycle` -/
@[simp] theorem State.cycle_params : (s.cycle).params = s.params := rfl
@[simp] theorem State.cycle_beacons : (s.cycle).beacons = s.beacons.map (Beacon.tick s.params s.mem) := rfl
@[simp] theorem State.cycle_mem : (s.cycle).mem = s.mem := rfl
@[simp] theorem State.cycle_diag : (s.cycle).diag = s.diag := rfl
@[simp] theorem State.cycle_turn : (s.cycle).turn = s.turn := rfl
@[simp] theorem State.cycle_events : (s.cycle).events = s.events := rfl
@[simp] theorem State.cycle_reply : (s.cycle).reply = s.reply := rfl
@[simp] theorem State.cycle_loans : (s.cycle).loans = s.loans := rfl

/-! ### `State.settleLoans` -/
@[simp] theorem State.settleLoans_params : (s.settleLoans).params = s.params := rfl
@[simp] theorem State.settleLoans_beacons : (s.settleLoans).beacons = s.beacons := rfl
@[simp] theorem State.settleLoans_mem : (s.settleLoans).mem = s.mem := rfl
@[simp] theorem State.settleLoans_diag : (s.settleLoans).diag = s.diag := rfl
@[simp] theorem State.settleLoans_turn : (s.settleLoans).turn = s.turn := rfl
@[simp] theorem State.settleLoans_events : (s.settleLoans).events = s.events := rfl
@[simp] theorem State.settleLoans_reply : (s.settleLoans).reply = s.reply := rfl

end Sys2Proof.Machine
end

