-- ==== Sys2Proof/Laws/Exec.lean ====
section
/-! SUPPORT. What running an instruction can do, said once: an instruction changes only the beacon in its interpret
phase and the turn. -/

namespace Sys2Proof.Machine

/-- What an instruction does to the transmitter that interprets it, and how its rule ends. -/
def effect : Instr → Params → Beacon → Beacon × ByteEnd
  | .setpwr m, _, b => (b.setPower m, .cont)
  | .unk04 _, p, b => (b.endReaction p, .ret)
  | .unk08 _, p, b => (b.endReaction p, .ret)
  | .holdOn10, _, b => (b.zeroHold true, .cont)
  | .holdOn11 d, _, b => (b.startHold true (holdTicks d), .ret)
  | .holdOn12 d, _, b => (b.startHold true (holdTicks d), .ret)
  | .holdOn14 d, _, b => (b.startHold true (holdTicks d), .ret)
  | .holdOn18 d, _, b => (b.startHold true (holdTicks d), .ret)
  | .holdOff20, _, b => (b.zeroHold false, .cont)
  | .holdOff21 d, _, b => (b.startHold false (holdTicks d), .ret)
  | .holdOff22 d, _, b => (b.startHold false (holdTicks d), .ret)
  | .holdOff24 d, _, b => (b.startHold false (holdTicks d), .ret)
  | .holdOff28 d, _, b => (b.startHold false (holdTicks d), .ret)
  | .unk30 _, p, b => (b.endReaction p, .ret)
  | .unk40 _, p, b => (b.endReaction p, .ret)
  | .unk60 _, p, b => (b.endReaction p, .ret)
  | .unk70 _, p, b => (b.endReaction p, .ret)
  | .unk78 _, p, b => (b.endReaction p, .ret)
  | .unk7C _, p, b => (b.endReaction p, .ret)
  | .wspace, _, b => (b.startHold false spaceTicks, .ret)
  | .endMsg, p, b => (b.endReaction p, .ret)
  | .sym6 bits, _, b => (b.keySymbol bits, .ret)
  | .sym5 bits, _, b => (b.keySymbol bits, .ret)
  | .sym4 bits, _, b => (b.keySymbol bits, .ret)
  | .sym3 bits, _, b => (b.keySymbol bits, .ret)
  | .sym2 bits, _, b => (b.keySymbol bits, .ret)
  | .sym1 bits, _, b => (b.keySymbol bits, .ret)
  | .rsvsym0, p, b => (b.endReaction p, .ret)
  | .rsvsym1, p, b => (b.endReaction p, .ret)

/-- Whose turn it is after a byte rule on beacon `k`. -/
def State.turnOf (s : State) (k : Nat) : ByteEnd → Turn
  | .ret => s.turnAfter k
  | .cont => .interpret k

/-- A byte rule on the beacon whose turn it is. -/
theorem State.interpretByte_eq {s : State} {k : Nat} {b : Beacon} (ht : s.turn = .interpret k)
    (hb : s.beacons[k]? = some b) (rule : Params → Beacon → Beacon) (fin : ByteEnd) :
    s.interpretByte rule fin =
      .next { s with beacons := s.beacons.set k (rule s.params b), turn := s.turnOf k fin } := by
  cases fin <;> simp [State.interpretByte, State.turnOf, ht, hb]

/-- All that a byte rule can do when it answers with a next state. -/
theorem State.interpretByte_next {s t : State} {rule : Params → Beacon → Beacon} {fin : ByteEnd}
    (h : s.interpretByte rule fin = .next t) :
    ∃ k b, s.turn = .interpret k ∧ s.beacons[k]? = some b ∧
      t = { s with beacons := s.beacons.set k (rule s.params b), turn := s.turnOf k fin } := by
  unfold State.interpretByte at h
  split at h
  · rename_i k ht
    split at h
    · rename_i b hb
      refine ⟨k, b, ht, hb, ?_⟩
      cases fin <;> simpa [State.turnOf] using h.symm
    · cases h
  · cases h

/-- Every instruction's meaning is its effect as a byte rule. -/
theorem exec_effect (i : Instr) (s : State) (fin : ByteEnd) (h : ∀ p b, (effect i p b).2 = fin) :
    exec i s = s.interpretByte (fun p b => (effect i p b).1) fin := by
  have h0 := h Params.chosen (Beacon.reset Params.chosen)
  cases i <;> (subst h0; rfl)

/-- An instruction run on the beacon whose turn it is: the whole next state. -/
theorem exec_eq {s : State} {k : Nat} {b : Beacon} (i : Instr) (ht : s.turn = .interpret k)
    (hb : s.beacons[k]? = some b) :
    exec i s = .next { s with
      beacons := s.beacons.set k (effect i s.params b).1
      turn := s.turnOf k (effect i s.params b).2 } := by
  rw [exec_effect i s (effect i s.params b).2 (by cases i <;> intros <;> rfl), State.interpretByte_eq ht hb]

/-- All that an instruction can do when it answers with a next state. -/
theorem exec_next {i : Instr} {s t : State} (h : exec i s = .next t) :
    ∃ k b, s.turn = .interpret k ∧ s.beacons[k]? = some b ∧
      t = { s with
        beacons := s.beacons.set k (effect i s.params b).1
        turn := s.turnOf k (effect i s.params b).2 } := by
  have fin : ∃ f, ∀ p b, (effect i p b).2 = f := by cases i <;> exact ⟨_, fun _ _ => rfl⟩
  obtain ⟨f, hf⟩ := fin
  rw [exec_effect i s f hf] at h
  obtain ⟨k, b, ht, hb, rfl⟩ := State.interpretByte_next h
  exact ⟨k, b, ht, hb, by rw [hf]⟩

end Sys2Proof.Machine
end

