-- ==== Sys2Proof/Laws/Host.lean ====
section
/-! SUPPORT. What the host's operations can do when they answer with a next state, said once each. -/

namespace Sys2Proof.Machine

variable {s t : State}

@[simp] theorem State.takeEvent_params (es : List Event) : (s.takeEvent es).params = s.params := rfl
@[simp] theorem State.takeEvent_beacons (es : List Event) : (s.takeEvent es).beacons = s.beacons := rfl
@[simp] theorem State.takeEvent_mem (es : List Event) : (s.takeEvent es).mem = s.mem := rfl
@[simp] theorem State.takeEvent_diag (es : List Event) : (s.takeEvent es).diag = s.diag := rfl
@[simp] theorem State.takeEvent_turn (es : List Event) : (s.takeEvent es).turn = s.turn := rfl
@[simp] theorem State.takeEvent_events (es : List Event) : (s.takeEvent es).events = es := rfl
@[simp] theorem State.takeEvent_reply (es : List Event) : (s.takeEvent es).reply = s.reply := rfl

/-- A step between operations performs the oldest pending one. -/
theorem State.step_event {e : Event} {es : List Event} (ht : s.turn = .host) (he : s.events = e :: es) :
    step s = (s.takeEvent es).perform e := by
  simp only [step, ht, State.hostTurn, he]

/-- A step between operations with none pending begins a cycle. -/
theorem State.step_idle (ht : s.turn = .host) (he : s.events = []) : step s = .next s.beginCycle := by
  simp only [step, ht, State.hostTurn, he]

theorem State.onBeacon_eq {i : Nat} {b : Beacon} (hb : s.beacons[i]? = some b)
    (f : Beacon → Host.Outcome State Fault Refusal) : s.onBeacon i f = f b := by
  simp [State.onBeacon, hb]

theorem State.realHandle_eq {h : Handle} (hh : h < s.params.nBuffers)
    (f : Handle → Host.Outcome State Fault Refusal) : s.realHandle (some h) f = f h := by
  simp [State.realHandle, hh]

/-- Loans of beacons that are not done stay, the others end (20 R72). -/
theorem State.mem_takeEvent_loans {es : List Event} {l : Nat × Handle} :
    l ∈ (s.takeEvent es).loans ↔ l ∈ s.loans ∧ ∃ b, s.beacons[l.1]? = some b ∧ b.isDone = false := by
  simp only [State.takeEvent, State.settleLoans, List.mem_filter]
  cases s.beacons[l.1]? <;> simp

theorem State.onBeacon_next {i : Nat} {f : Beacon → Host.Outcome State Fault Refusal}
    (h : s.onBeacon i f = .next t) : ∃ b, s.beacons[i]? = some b ∧ f b = .next t := by
  unfold State.onBeacon at h
  split at h
  · exact ⟨_, ‹_›, h⟩
  · cases h

theorem State.realHandle_next {o : Option Handle} {f : Handle → Host.Outcome State Fault Refusal}
    (h : s.realHandle o f = .next t) : ∃ m, o = some m ∧ m < s.params.nBuffers ∧ f m = .next t := by
  unfold State.realHandle at h
  split at h
  · cases h
  · split at h
    · exact ⟨_, rfl, ‹_›, h⟩
    · cases h

theorem State.install_next {i : Nat} {b : Beacon} {m : Handle} {r : Option Reply} (h : s.install i b m r = .next t) :
    s.heldElsewhere i m = false ∧
      t = { s with beacons := s.beacons.set i (b.setNext m), loans := (i, m) :: s.loans, reply := r } := by
  unfold State.install at h
  split at h
  · cases h
  · rename_i hn
    injection h with h
    exact ⟨by simpa using hn, h.symm⟩

theorem State.hostWrite_next {m : Handle} {pos : Nat} {v : Byte} (h : s.hostWrite m pos v = .next t) :
    m < s.params.nBuffers ∧ pos < s.params.msgCapacity ∧ s.lent m = false ∧
      t = { s with mem := s.mem.write (cellAddr s.params m pos) v, reply := none } := by
  unfold State.hostWrite at h
  split at h
  · cases h
  · split at h
    · cases h
    · split at h
      · cases h
      · rename_i h1 h2 h3
        injection h with h
        exact ⟨not_not.mp h1, not_not.mp h2, by simpa using h3, h.symm⟩

theorem State.hostEncode_next {m : Handle} {cap : Nat} {text : List Byte} {e : Sensors}
    (h : s.hostEncode m cap text e = .next t) :
    m < s.params.nBuffers ∧ 1 ≤ cap ∧ cap ≤ s.params.msgCapacity ∧ s.lent m = false ∧
      t = { s with
        mem := s.mem.writeMany (cellAddr s.params m 0) (encodeMessage s.params.extraPunct e cap text).bytes
        diag := (encodeMessage s.params.extraPunct e cap text).error.map fun err => ⟨err, cap, text, e⟩
        reply := some (.encoded (encodeMessage s.params.extraPunct e cap text).error.isNone) } := by
  unfold State.hostEncode at h
  split at h
  · cases h
  · split at h
    · cases h
    · split at h
      · cases h
      · rename_i h1 h2 h3
        injection h with h
        exact ⟨not_not.mp h1, by omega, by omega, by simpa using h3, h.symm⟩

end Sys2Proof.Machine
end

