-- ==== Sys2Proof/Laws/Memory.lean ====
section
/-! SUPPORT. What the memory operations do: a read after a write, and the canonical form. -/

namespace Sys2Proof.Machine

theorem Memory.wfFrom_mono {lo lo' : Nat} {m : Memory} (h : lo' ≤ lo) (w : Memory.wfFrom lo m = true) :
    Memory.wfFrom lo' m = true := by
  cases m with
  | nil => rfl
  | cons c m =>
    simp only [Memory.wfFrom, Bool.and_eq_true, decide_eq_true_eq] at w ⊢
    exact ⟨⟨by omega, w.1.2⟩, w.2⟩

theorem Memory.wfFrom_cell {lo a : Nat} {v : Byte} {m : Memory} (h : lo ≤ a) (w : Memory.wfFrom (a + 1) m = true) :
    Memory.wfFrom lo (Memory.cell a v m) = true := by
  unfold Memory.cell
  split
  · exact Memory.wfFrom_mono (by omega) w
  · simp_all [Memory.wfFrom]

theorem Memory.wfFrom_write {lo a : Nat} {v : Byte} {m : Memory} (h : lo ≤ a) (w : Memory.wfFrom lo m = true) :
    Memory.wfFrom lo (m.write a v) = true := by
  induction m generalizing lo with
  | nil => exact Memory.wfFrom_cell h rfl
  | cons c m ih =>
    have w' := w
    simp only [Memory.wfFrom, Bool.and_eq_true, decide_eq_true_eq] at w
    unfold Memory.write
    split
    · refine Memory.wfFrom_cell h ?_
      simp only [Memory.wfFrom, Bool.and_eq_true, decide_eq_true_eq]
      exact ⟨⟨by omega, w.1.2⟩, w.2⟩
    · split
      · rename_i e
        subst e
        exact Memory.wfFrom_cell h w.2
      · simp only [Memory.wfFrom, Bool.and_eq_true, decide_eq_true_eq]
        exact ⟨w.1, ih (by omega) w.2⟩

/-- A write keeps the canonical form. -/
theorem Memory.wf_write {m : Memory} (w : m.wf = true) (a : Nat) (v : Byte) : (m.write a v).wf = true :=
  Memory.wfFrom_write (Nat.zero_le a) w

/-- A run of writes keeps the canonical form. -/
theorem Memory.wf_writeMany {m : Memory} (w : m.wf = true) (a : Nat) (vs : List Byte) :
    (m.writeMany a vs).wf = true := by
  induction vs generalizing m a with
  | nil => exact w
  | cons v vs ih => exact ih (Memory.wf_write w a v) (a + 1)

/-- Below everything listed, memory reads as unlisted. -/
theorem Memory.read_below {lo a : Nat} {m : Memory} (w : Memory.wfFrom lo m = true) (h : a < lo) :
    m.read a = Memory.unlisted := by
  induction m generalizing lo with
  | nil => rfl
  | cons c m ih =>
    simp only [Memory.wfFrom, Bool.and_eq_true, decide_eq_true_eq] at w
    unfold Memory.read
    rw [if_neg (by omega)]
    exact ih w.2 (by omega)

theorem Memory.read_cell_same {a : Nat} {v : Byte} {m : Memory} (w : Memory.wfFrom (a + 1) m = true) :
    (Memory.cell a v m).read a = v := by
  unfold Memory.cell
  split
  · rename_i e
    rw [Memory.read_below w (by omega), e]
  · simp [Memory.read]

theorem Memory.read_cell_other {a a' : Nat} {v : Byte} {m : Memory} (h : a' ≠ a) :
    (Memory.cell a v m).read a' = m.read a' := by
  unfold Memory.cell
  split
  · rfl
  · simp [Memory.read, Ne.symm h]

theorem Memory.read_write_from {lo a a' : Nat} {v : Byte} {m : Memory} (w : Memory.wfFrom lo m = true) :
    (m.write a v).read a' = if a' = a then v else m.read a' := by
  induction m generalizing lo with
  | nil =>
    unfold Memory.write
    split
    · rename_i e
      subst e
      exact Memory.read_cell_same rfl
    · rename_i e
      exact Memory.read_cell_other e
  | cons c m ih =>
    simp only [Memory.wfFrom, Bool.and_eq_true, decide_eq_true_eq] at w
    unfold Memory.write
    split
    · rename_i hlt
      have w' : Memory.wfFrom (a + 1) (c :: m) = true := by
        simp only [Memory.wfFrom, Bool.and_eq_true, decide_eq_true_eq]
        exact ⟨⟨by omega, w.1.2⟩, w.2⟩
      split
      · rename_i e
        subst e
        exact Memory.read_cell_same w'
      · rename_i e
        exact Memory.read_cell_other e
    · split
      · rename_i _ e
        subst e
        split
        · rename_i e
          subst e
          exact Memory.read_cell_same w.2
        · rename_i e
          rw [Memory.read_cell_other e]
          simp [Memory.read, Ne.symm e]
      · rename_i _ e
        simp only [Memory.read]
        rw [ih w.2]
        split <;> split <;> simp_all

/-- A read after a write: the value written at its address, what was there everywhere else. -/
theorem Memory.read_write {m : Memory} (w : m.wf = true) (a a' : Nat) (v : Byte) :
    (m.write a v).read a' = if a' = a then v else m.read a' :=
  Memory.read_write_from w

/-- Every cell after a write was listed before or is the one written. -/
theorem Memory.mem_write {m : Memory} {a : Nat} {v : Byte} {c : Host.Cell} (h : c ∈ m.write a v) :
    c ∈ m ∨ c = (a, v) := by
  have cell : ∀ {l : Memory}, c ∈ Memory.cell a v l → c ∈ l ∨ c = (a, v) := by
    intro l hl
    unfold Memory.cell at hl
    split at hl
    · exact .inl hl
    · exact (List.mem_cons.mp hl).symm
  induction m with
  | nil => exact cell h
  | cons d m ih =>
    unfold Memory.write at h
    split at h
    · exact cell h
    · split at h
      · exact (cell h).imp (List.mem_cons_of_mem d) id
      · rcases List.mem_cons.mp h with h | h
        · exact .inl (h ▸ List.mem_cons_self)
        · exact (ih h).imp (List.mem_cons_of_mem d) id

/-- A write below a bound keeps every listed address below it. -/
theorem Memory.bounded_write {m : Memory} {n a : Nat} {v : Byte} (h : ∀ c ∈ m, c.1 < n) (ha : a < n) :
    ∀ c ∈ m.write a v, c.1 < n := by
  intro c hc
  rcases Memory.mem_write hc with hc | hc
  · exact h c hc
  · exact hc ▸ ha

/-- A run of writes below a bound keeps every listed address below it. -/
theorem Memory.bounded_writeMany {m : Memory} {n a : Nat} {vs : List Byte} (h : ∀ c ∈ m, c.1 < n)
    (ha : a + vs.length ≤ n) : ∀ c ∈ m.writeMany a vs, c.1 < n := by
  induction vs generalizing m a with
  | nil => exact h
  | cons v vs ih =>
    simp only [List.length_cons] at ha
    exact ih (Memory.bounded_write h (by omega)) (by omega)

/-- A read after a run of writes: the byte written at its place, what was there everywhere else. -/
theorem Memory.read_writeMany {m : Memory} (w : m.wf = true) (a a' : Nat) (vs : List Byte) :
    (m.writeMany a vs).read a' = if a ≤ a' then (vs[a' - a]?).getD (m.read a') else m.read a' := by
  induction vs generalizing m a with
  | nil => simp [Memory.writeMany]
  | cons v vs ih =>
    unfold Memory.writeMany
    rw [ih (Memory.wf_write w a v), Memory.read_write w]
    rcases Nat.lt_trichotomy a a' with h | h | h
    · have e : a' - a = a' - (a + 1) + 1 := by omega
      rw [e, List.getElem?_cons_succ, if_pos (Nat.le_of_lt h), if_pos (Nat.succ_le_of_lt h), if_neg (by omega)]
    · subst h
      simp
    · rw [if_neg (by omega), if_neg (by omega), if_neg (by omega)]

end Sys2Proof.Machine
end

