-- ==== Sys2Proof/Laws/PerInstr.lean ====
section
/-! SUPPORT. The per-instruction family of LAWS.json: a well-formed instruction's byte belongs to its row of the opcode
table (30_encoding.md R104), and the row is one of the table's. -/

namespace Sys2Proof.Laws

/-- The byte of a well-formed instruction belongs to the instruction's row, which the opcode table lists. -/
def EncodeFitsRow.Statement (i : Instr) : Prop :=
  i.wf = true → fits (encode i) i.row.value i.row.mask = true ∧ i.row ∈ opcodeTable

theorem EncodeFitsRow.setpwr (x : BitVec 2) : EncodeFitsRow.Statement (.setpwr x) := by
  revert x; unfold EncodeFitsRow.Statement; decide
theorem EncodeFitsRow.unk04 (x : BitVec 2) : EncodeFitsRow.Statement (.unk04 x) := by
  revert x; unfold EncodeFitsRow.Statement; decide
theorem EncodeFitsRow.unk08 (x : BitVec 3) : EncodeFitsRow.Statement (.unk08 x) := by
  revert x; unfold EncodeFitsRow.Statement; decide
theorem EncodeFitsRow.holdOn10 : EncodeFitsRow.Statement .holdOn10 := by
  unfold EncodeFitsRow.Statement; decide
theorem EncodeFitsRow.holdOn11 (x : BitVec 4) : EncodeFitsRow.Statement (.holdOn11 x) := by
  revert x; unfold EncodeFitsRow.Statement; decide
theorem EncodeFitsRow.holdOn12 (x : BitVec 4) : EncodeFitsRow.Statement (.holdOn12 x) := by
  revert x; unfold EncodeFitsRow.Statement; decide
theorem EncodeFitsRow.holdOn14 (x : BitVec 4) : EncodeFitsRow.Statement (.holdOn14 x) := by
  revert x; unfold EncodeFitsRow.Statement; decide
theorem EncodeFitsRow.holdOn18 (x : BitVec 4) : EncodeFitsRow.Statement (.holdOn18 x) := by
  revert x; unfold EncodeFitsRow.Statement; decide
theorem EncodeFitsRow.holdOff20 : EncodeFitsRow.Statement .holdOff20 := by
  unfold EncodeFitsRow.Statement; decide
theorem EncodeFitsRow.holdOff21 (x : BitVec 4) : EncodeFitsRow.Statement (.holdOff21 x) := by
  revert x; unfold EncodeFitsRow.Statement; decide
theorem EncodeFitsRow.holdOff22 (x : BitVec 4) : EncodeFitsRow.Statement (.holdOff22 x) := by
  revert x; unfold EncodeFitsRow.Statement; decide
theorem EncodeFitsRow.holdOff24 (x : BitVec 4) : EncodeFitsRow.Statement (.holdOff24 x) := by
  revert x; unfold EncodeFitsRow.Statement; decide
theorem EncodeFitsRow.holdOff28 (x : BitVec 4) : EncodeFitsRow.Statement (.holdOff28 x) := by
  revert x; unfold EncodeFitsRow.Statement; decide
theorem EncodeFitsRow.unk30 (x : BitVec 4) : EncodeFitsRow.Statement (.unk30 x) := by
  revert x; unfold EncodeFitsRow.Statement; decide
theorem EncodeFitsRow.unk40 (x : BitVec 5) : EncodeFitsRow.Statement (.unk40 x) := by
  revert x; unfold EncodeFitsRow.Statement; decide
theorem EncodeFitsRow.unk60 (x : BitVec 4) : EncodeFitsRow.Statement (.unk60 x) := by
  revert x; unfold EncodeFitsRow.Statement; decide
theorem EncodeFitsRow.unk70 (x : BitVec 3) : EncodeFitsRow.Statement (.unk70 x) := by
  revert x; unfold EncodeFitsRow.Statement; decide
theorem EncodeFitsRow.unk78 (x : BitVec 2) : EncodeFitsRow.Statement (.unk78 x) := by
  revert x; unfold EncodeFitsRow.Statement; decide
theorem EncodeFitsRow.unk7C (x : BitVec 1) : EncodeFitsRow.Statement (.unk7C x) := by
  revert x; unfold EncodeFitsRow.Statement; decide
theorem EncodeFitsRow.wspace : EncodeFitsRow.Statement .wspace := by
  unfold EncodeFitsRow.Statement; decide
theorem EncodeFitsRow.endMsg : EncodeFitsRow.Statement .endMsg := by
  unfold EncodeFitsRow.Statement; decide
theorem EncodeFitsRow.sym6 (x : BitVec 6) : EncodeFitsRow.Statement (.sym6 x) := by
  revert x; unfold EncodeFitsRow.Statement; decide
theorem EncodeFitsRow.sym5 (x : BitVec 5) : EncodeFitsRow.Statement (.sym5 x) := by
  revert x; unfold EncodeFitsRow.Statement; decide
theorem EncodeFitsRow.sym4 (x : BitVec 4) : EncodeFitsRow.Statement (.sym4 x) := by
  revert x; unfold EncodeFitsRow.Statement; decide
theorem EncodeFitsRow.sym3 (x : BitVec 3) : EncodeFitsRow.Statement (.sym3 x) := by
  revert x; unfold EncodeFitsRow.Statement; decide
theorem EncodeFitsRow.sym2 (x : BitVec 2) : EncodeFitsRow.Statement (.sym2 x) := by
  revert x; unfold EncodeFitsRow.Statement; decide
theorem EncodeFitsRow.sym1 (x : BitVec 1) : EncodeFitsRow.Statement (.sym1 x) := by
  revert x; unfold EncodeFitsRow.Statement; decide
theorem EncodeFitsRow.rsvsym0 : EncodeFitsRow.Statement .rsvsym0 := by
  unfold EncodeFitsRow.Statement; decide
theorem EncodeFitsRow.rsvsym1 : EncodeFitsRow.Statement .rsvsym1 := by
  unfold EncodeFitsRow.Statement; decide

end Sys2Proof.Laws
end

