-- ==== Sys2Proof/Laws/Tick.lean ====
section
/-! SUPPORT. What the phases of a tick can do, said once: every result of the counter phase and of the phases P0 to P2. -/

namespace Sys2Proof.Machine

/-- Everything the counter phase (42 R243) can do, by the counter that is running. -/
theorem Beacon.counterPhase_cases {p : Params} {b b' : Beacon} {go : Bool} (h : b.counterPhase p = (b', go)) :
    (b.cmdPause ≠ 0#8 ∧ b.cmdPause - 1#8 ≠ 0#8 ∧ b' = { b with cmdPause := b.cmdPause - 1#8 } ∧ go = false) ∨
    (b.cmdPause ≠ 0#8 ∧ b.cmdPause - 1#8 = 0#8 ∧
      b' = { b with cmdPause := 0#8, bytePos := b.bytePos + 1, bitPos := 7#3 } ∧ go = !p.boundaryExtraTick) ∨
    (b.cmdPause = 0#8 ∧ b.onPause ≠ 0#2 ∧ b.onPause - 1#2 ≠ 0#2 ∧
      b' = { b with onPause := b.onPause - 1#2 } ∧ go = false) ∨
    (b.cmdPause = 0#8 ∧ b.onPause ≠ 0#2 ∧ b.onPause - 1#2 = 0#2 ∧
      b' = { b with onPause := 0#2, key := false, offPause := if b.bitPos = 0#3 then 3#2 else 1#2 } ∧ go = false) ∨
    (b.cmdPause = 0#8 ∧ b.onPause = 0#2 ∧ b.offPause ≠ 0#2 ∧ b.offPause - 1#2 ≠ 0#2 ∧
      b' = { b with offPause := b.offPause - 1#2 } ∧ go = false) ∨
    (b.cmdPause = 0#8 ∧ b.onPause = 0#2 ∧ b.offPause ≠ 0#2 ∧ b.offPause - 1#2 = 0#2 ∧ b.bitPos ≠ 0#3 ∧
      b' = { b with offPause := 0#2 }.nextElement ∧ go = false) ∨
    (b.cmdPause = 0#8 ∧ b.onPause = 0#2 ∧ b.offPause ≠ 0#2 ∧ b.offPause - 1#2 = 0#2 ∧ b.bitPos = 0#3 ∧
      b' = { b with offPause := 0#2, bytePos := b.bytePos + 1, bitPos := 7#3 } ∧ go = !p.boundaryExtraTick) ∨
    (b.cmdPause = 0#8 ∧ b.onPause = 0#2 ∧ b.offPause = 0#2 ∧ b' = b ∧ go = true) := by
  obtain rfl : (b.counterPhase p).1 = b' := congrArg Prod.fst h
  obtain rfl : (b.counterPhase p).2 = go := congrArg Prod.snd h
  unfold Beacon.counterPhase
  by_cases hc : b.cmdPause = 0#8
  · by_cases ho : b.onPause = 0#2
    · by_cases hf : b.offPause = 0#2
      · simp [hc, ho, hf]
      · by_cases hz : b.offPause - 1#2 = 0#2 <;> by_cases hp : b.bitPos = 0#3 <;>
          simp [hc, ho, hf, hz, hp, Beacon.countOff, Beacon.atBoundary, Beacon.advance]
    · by_cases hz : b.onPause - 1#2 = 0#2 <;> simp [hc, ho, hz, Beacon.countOn]
  · by_cases hz : b.cmdPause - 1#8 = 0#8 <;> simp [hc, hz, Beacon.countCmd, Beacon.atBoundary, Beacon.advance]

/-- Everything the phases P0 and P1 (42 R241, R242) can do before the counter phase. -/
theorem Beacon.tickPhases_cases {p : Params} {b b' : Beacon} {go : Bool} (h : b.tickPhases p = (b', go)) :
    (b.enabled = false ∧ b' = b ∧ go = false) ∨
    (b.enabled = true ∧ b.idle = true ∧ b.next = none ∧ b' = b ∧ go = false) ∨
    (∃ m, b.enabled = true ∧ b.idle = true ∧ b.next = some m ∧ (b.adopt m).counterPhase p = (b', go)) ∨
    (b.enabled = true ∧ b.idle = false ∧ b.counterPhase p = (b', go)) := by
  unfold Beacon.tickPhases at h
  cases he : b.enabled with
  | false =>
    simp only [he, Bool.not_false, if_true, Prod.mk.injEq] at h
    exact .inl ⟨rfl, h.1.symm, h.2.symm⟩
  | true =>
    cases hi : b.idle with
    | false => exact .inr (.inr (.inr ⟨rfl, rfl, by simpa [he, hi] using h⟩))
    | true =>
      cases hn : b.next with
      | none =>
        simp only [he, hi, hn, Bool.not_true, Bool.false_eq_true, if_true, if_false, Prod.mk.injEq] at h
        exact .inr (.inl ⟨rfl, rfl, rfl, h.1.symm, h.2.symm⟩)
      | some m => exact .inr (.inr (.inl ⟨m, rfl, rfl, rfl, by simpa [he, hi, hn] using h⟩))

/-- A step that ticks a beacon changes only that beacon and the turn. -/
theorem State.tickTurn_eq {s : State} {k : Nat} {b : Beacon} (hb : s.beacons[k]? = some b) :
    s.tickTurn k = .next { s with
      beacons := s.beacons.set k (b.tickPhases s.params).1
      turn := if (b.tickPhases s.params).2 then .interpret k else s.turnAfter k } := by
  simp [State.tickTurn, hb]

end Sys2Proof.Machine
end

