-- ==== Sys2Proof/Laws/Step.lean ====
section
/-! SUPPORT. What one step can do when it answers with a next state, said once: by whose turn it is, and to one
transmitter. -/

namespace Sys2Proof.Machine

variable {s t : State}

/-- A step at the start of beacon `k`'s tick. -/
theorem State.step_tick_next {k : Nat} (ht : s.turn = .tick k) (h : step s = .next t) :
    ∃ b, s.beacons[k]? = some b ∧ t = { s with
      beacons := s.beacons.set k (b.tickPhases s.params).1
      turn := if (b.tickPhases s.params).2 then .interpret k else s.turnAfter k } := by
  simp only [step, ht] at h
  cases hb : s.beacons[k]? with
  | none => simp [State.tickTurn, hb] at h
  | some b =>
    rw [State.tickTurn_eq hb] at h
    injection h with h
    exact ⟨b, rfl, h.symm⟩

/-- A step in beacon `k`'s interpret phase. -/
theorem State.step_interpret_next {k : Nat} (ht : s.turn = .interpret k) (h : step s = .next t) :
    ∃ b v, s.beacons[k]? = some b ∧ s.fetchByte k = .ok v ∧ t = { s with
      beacons := s.beacons.set k (effect (decodeByte v) s.params b).1
      turn := s.turnOf k (effect (decodeByte v) s.params b).2 } := by
  simp only [step, ht] at h
  cases hf : s.fetchByte k with
  | error f => simp [hf] at h
  | ok v =>
    simp only [hf] at h
    obtain ⟨k', b, ht', hb, rfl⟩ := exec_next h
    obtain rfl : k = k' := by simpa [ht] using ht'
    exact ⟨b, v, hb, rfl, rfl⟩

/-- A byte that ends a message is decoded to an instruction of the end-of-message reaction. -/
theorem endsMessage_row {v : Byte} (hv : endsMessage v = true) :
    (decodeByte v).row.mnemonic ∈ ["UNK", "END", "RSVSYM0", "RSVSYM1"] := by
  revert v
  decide

/-- What a byte that ends a message does (42 R257, R258; 43 R286). -/
theorem effect_endsMessage {v : Byte} (hv : endsMessage v = true) (p : Params) (b : Beacon) :
    effect (decodeByte v) p b = (b.endReaction p, .ret) := by
  have h := endsMessage_row hv
  generalize decodeByte v = i at h ⊢
  cases i <;> first | rfl | simp [Instr.row] at h

/-- A step that interprets a byte that ends the message `h` completes its transmission (70 R391). -/
theorem State.transmitted_of_step {k : Nat} {b : Beacon} {m : Handle} {v : Byte} (ht : s.turn = .interpret k)
    (hb : s.beacons[k]? = some b) (hm : b.cur = some m) (hf : s.fetchByte k = .ok v) (hv : endsMessage v = true)
    (h : step s = .next t) : transmitted s t k m := by
  refine ⟨ht, ⟨b, hb, hm⟩, ⟨v, hf, hv⟩, h, b.endReaction s.params, ?_, rfl⟩
  obtain ⟨c, w, hc, hw, rfl⟩ := State.step_interpret_next ht h
  obtain rfl : b = c := Option.some.inj (hb.symm.trans hc)
  obtain rfl : v = w := Except.ok.inj (hf.symm.trans hw)
  simp [effect_endsMessage hv, (List.getElem?_eq_some_iff.mp hb).1]

/-- A step between operations. -/
theorem State.step_host_next (ht : s.turn = .host) (h : step s = .next t) :
    (s.events = [] ∧ t = s.beginCycle) ∨ ∃ e es, s.events = e :: es ∧ (s.takeEvent es).perform e = .next t := by
  cases he : s.events with
  | nil =>
    rw [State.step_idle ht he] at h
    injection h with h
    exact .inl ⟨rfl, h.symm⟩
  | cons e es =>
    rw [State.step_event ht he] at h
    exact .inr ⟨e, es, rfl, h⟩

/-- What a list with one place replaced holds at a place that was there before. -/
theorem getElem?_set_cases {l : List Beacon} {i k : Nat} {c b b' : Beacon} (hb : l[k]? = some b)
    (h : (l.set i c)[k]? = some b') : b' = b ∨ (i = k ∧ b' = c) := by
  by_cases e : i = k
  · subst e
    have hk := (List.getElem?_eq_some_iff.mp hb).1
    simp only [List.getElem?_set_self hk, Option.some.injEq] at h
    exact .inr ⟨rfl, h.symm⟩
  · rw [List.getElem?_set_ne e, hb] at h
    injection h with h
    exact .inl h.symm

/-- All that a host operation can do to transmitter `k`. -/
theorem State.perform_beacon {e : Event} {k : Nat} {b b' : Beacon} (h : s.perform e = .next t)
    (hb : s.beacons[k]? = some b) (hb' : t.beacons[k]? = some b') :
    b' = b ∨ (∃ m, (e = .setNextMessage k (some m) ∨ e = .handoff k (some m)) ∧ b' = b.setNext m) ∨
      (e = .setEnabled k true ∧ b' = b.enable) ∨ (e = .setEnabled k false ∧ b' = b.disable s.params) ∨
      (e = .reset ∧ b' = Beacon.reset s.params) := by
  have same : ∀ {c}, s.beacons[k]? = some c → c = b := fun hc => by
    rw [hb] at hc
    injection hc with hc
    exact hc.symm
  have inst : ∀ {i m r} {c : Beacon}, s.beacons[i]? = some c → s.install i c m r = .next t →
      b' = b ∨ (i = k ∧ b' = b.setNext m) := by
    intro i m r c hc h
    obtain ⟨_, rfl⟩ := State.install_next h
    rcases getElem?_set_cases hb hb' with h | ⟨rfl, h⟩
    · exact .inl h
    · rw [same hc] at h
      exact .inr ⟨rfl, h⟩
  cases e <;> simp only [State.perform] at h
  case setNextMessage =>
    obtain ⟨c, hc, h⟩ := State.onBeacon_next h
    obtain ⟨m, rfl, _, h⟩ := State.realHandle_next h
    rcases inst hc h with h | ⟨rfl, h⟩
    · exact .inl h
    · exact .inr (.inl ⟨m, .inl rfl, h⟩)
  case handoff =>
    obtain ⟨c, hc, h⟩ := State.onBeacon_next h
    obtain ⟨m, rfl, _, h⟩ := State.realHandle_next h
    split at h
    · rcases inst hc h with h | ⟨rfl, h⟩
      · exact .inl h
      · exact .inr (.inl ⟨m, .inr rfl, h⟩)
    · injection h with h
      subst h
      exact .inl (same hb')
  case setEnabled i on =>
    obtain ⟨c, hc, h⟩ := State.onBeacon_next h
    injection h with h
    subst h
    rcases getElem?_set_cases hb hb' with h | ⟨rfl, h⟩
    · exact .inl h
    · rw [same hc] at h
      cases on
      · exact .inr (.inr (.inr (.inl ⟨rfl, by simpa using h⟩)))
      · exact .inr (.inr (.inl ⟨rfl, by simpa using h⟩))
  case isDone =>
    obtain ⟨c, _, h⟩ := State.onBeacon_next h
    injection h with h
    subst h
    exact .inl (same hb')
  case writeByte =>
    obtain ⟨_, _, _, rfl⟩ := State.hostWrite_next h
    exact .inl (same hb')
  case encodeMessage =>
    obtain ⟨_, _, _, _, rfl⟩ := State.hostEncode_next h
    exact .inl (same hb')
  case reset =>
    injection h with h
    subst h
    simp only [State.assertReset, List.getElem?_map, hb, Option.map_some, Option.some.injEq] at hb'
    exact .inr (.inr (.inr (.inr ⟨rfl, hb'.symm⟩)))
  all_goals
    injection h with h
    subst h
    exact .inl (same hb')

/-- No step adds or removes a transmitter (45 R320). -/
theorem State.step_length (h : step s = .next t) : t.beacons.length = s.beacons.length := by
  rcases ht : s.turn with _ | k | k
  · rcases State.step_host_next ht h with ⟨_, rfl⟩ | ⟨e, es, he, h⟩
    · rfl
    · cases e <;> simp only [State.perform] at h
      case setNextMessage =>
        obtain ⟨c, _, h⟩ := State.onBeacon_next h
        obtain ⟨m, _, _, h⟩ := State.realHandle_next h
        obtain ⟨_, rfl⟩ := State.install_next h
        simp
      case handoff =>
        obtain ⟨c, _, h⟩ := State.onBeacon_next h
        obtain ⟨m, _, _, h⟩ := State.realHandle_next h
        split at h
        · obtain ⟨_, rfl⟩ := State.install_next h
          simp
        · injection h with h
          simp [← h]
      case setEnabled =>
        obtain ⟨c, _, h⟩ := State.onBeacon_next h
        injection h with h
        simp [← h]
      case isDone =>
        obtain ⟨c, _, h⟩ := State.onBeacon_next h
        injection h with h
        simp [← h]
      case writeByte =>
        obtain ⟨_, _, _, rfl⟩ := State.hostWrite_next h
        rfl
      case encodeMessage =>
        obtain ⟨_, _, _, _, rfl⟩ := State.hostEncode_next h
        rfl
      all_goals
        injection h with h
        simp [← h, State.beginCycle, State.assertReset]
  · obtain ⟨b, _, rfl⟩ := State.step_tick_next ht h
    simp
  · obtain ⟨b, v, _, _, rfl⟩ := State.step_interpret_next ht h
    simp

/-- All that a step can do to transmitter `k`. -/
theorem State.step_beacon {k : Nat} {b b' : Beacon} (h : step s = .next t) (hb : s.beacons[k]? = some b)
    (hb' : t.beacons[k]? = some b') :
    b' = b ∨ (s.turn = .tick k ∧ b' = (b.tickPhases s.params).1) ∨
      (s.turn = .interpret k ∧ ∃ v, s.fetchByte k = .ok v ∧ b' = (effect (decodeByte v) s.params b).1) ∨
      (s.turn = .host ∧
        ((∃ m es, (s.events = .setNextMessage k (some m) :: es ∨ s.events = .handoff k (some m) :: es) ∧
          b' = b.setNext m) ∨
        (∃ es, s.events = .setEnabled k true :: es ∧ b' = b.enable) ∨
        (∃ es, s.events = .setEnabled k false :: es ∧ b' = b.disable s.params) ∨
        ∃ es, s.events = .reset :: es ∧ b' = Beacon.reset s.params)) := by
  rcases ht : s.turn with _ | j | j
  · rcases State.step_host_next ht h with ⟨_, rfl⟩ | ⟨e, es, he, h⟩
    · change s.beacons[k]? = _ at hb'
      rw [hb] at hb'
      injection hb' with h
      exact .inl h.symm
    · rcases State.perform_beacon h hb hb' with h | ⟨m, h, g⟩ | ⟨rfl, g⟩ | ⟨rfl, g⟩ | ⟨rfl, g⟩
      · exact .inl h
      · exact .inr (.inr (.inr ⟨rfl, .inl ⟨m, es, by rcases h with rfl | rfl <;> simp [he], g⟩⟩))
      · exact .inr (.inr (.inr ⟨rfl, .inr (.inl ⟨es, he, g⟩)⟩))
      · exact .inr (.inr (.inr ⟨rfl, .inr (.inr (.inl ⟨es, he, g⟩))⟩))
      · exact .inr (.inr (.inr ⟨rfl, .inr (.inr (.inr ⟨es, he, g⟩))⟩))
  · obtain ⟨c, hc, rfl⟩ := State.step_tick_next ht h
    rcases getElem?_set_cases hb hb' with h | ⟨rfl, h⟩
    · exact .inl h
    · rw [hb] at hc
      injection hc with hc
      subst hc
      exact .inr (.inl ⟨rfl, h⟩)
  · obtain ⟨c, v, hc, hv, rfl⟩ := State.step_interpret_next ht h
    rcases getElem?_set_cases hb hb' with h | ⟨rfl, h⟩
    · exact .inl h
    · rw [hb] at hc
      injection hc with hc
      subst hc
      exact .inr (.inr (.inl ⟨rfl, v, hv, h⟩))

end Sys2Proof.Machine
end

