-- ==== Sys2Proof/Tests/Slice0.lean ====
section
/-! SUPPORT. The model's own tests. Expected values are the spec's: the encodings of 30_encoding.md, the byte values of
40_char_encoder.md, the vectors of 95_test_vectors.md. Then, for each statement with hypotheses, a concrete state and
operands that meet them together, for each clause at a boundary where it has one. -/

namespace Sys2Proof.Tests

open Sys2Proof.Machine

/-! ## Well-formedness: each check refuses a term -/

theorem test_holdOn11_refuses_other_codes : (Instr.holdOn11 0#4).wf = false ∧ (Instr.holdOn11 2#4).wf = false := by decide
theorem test_holdOn12_refuses_other_codes : (Instr.holdOn12 1#4).wf = false ∧ (Instr.holdOn12 4#4).wf = false := by decide
theorem test_holdOn14_refuses_other_codes : (Instr.holdOn14 3#4).wf = false ∧ (Instr.holdOn14 8#4).wf = false := by decide
theorem test_holdOn18_refuses_other_codes : (Instr.holdOn18 7#4).wf = false ∧ (Instr.holdOn18 15#4).wf = true := by decide
theorem test_holdOff21_refuses_other_codes : (Instr.holdOff21 0#4).wf = false ∧ (Instr.holdOff21 2#4).wf = false := by decide
theorem test_holdOff22_refuses_other_codes : (Instr.holdOff22 1#4).wf = false ∧ (Instr.holdOff22 4#4).wf = false := by decide
theorem test_holdOff24_refuses_other_codes : (Instr.holdOff24 3#4).wf = false ∧ (Instr.holdOff24 8#4).wf = false := by decide
theorem test_holdOff28_refuses_other_codes : (Instr.holdOff28 7#4).wf = false ∧ (Instr.holdOff28 8#4).wf = true := by decide
/-- 00 R8: no digit, letter, fixed punctuation, space, `!` or null as an extra; the hyphen is one. -/
theorem test_extraKeyOk_refuses :
    ([0x00#8, 0x30#8, 0x39#8, 0x41#8, 0x5A#8, 0x61#8, 0x7A#8, 0x3D#8, 0x3F#8, 0x2F#8, 0x2E#8, 0x2C#8, 0x20#8,
      0x21#8].all fun c => !Params.extraKeyOk c) = true ∧ Params.extraKeyOk 0x2D#8 = true := by decide
theorem test_extraValueOk_refuses : Params.extraValueOk 0x7F#8 = false ∧ Params.extraValueOk 0xFE#8 = false ∧
    Params.extraValueOk 0x80#8 = true ∧ Params.extraValueOk 0xFD#8 = true := by decide
theorem test_params_refuse_no_beacon : ({ Params.chosen with nBeacons := 0 } : Params).wf = false := by decide
theorem test_params_refuse_no_byte : ({ Params.chosen with msgCapacity := 0 } : Params).wf = false := by decide
theorem test_params_refuse_bad_extra : ({ Params.chosen with extraPunct := [(0x21#8, 0xA1#8)] } : Params).wf = false := by
  decide
theorem test_params_chosen : Params.chosen.wf = true ∧ Params.chosen.asSpec = true := by decide

/-! ## Decoding: words written out bit by bit from 30 R92, R95 and the rows of the opcode table -/

theorem test_decode_setpwr : decodeByte 0b00000011#8 = .setpwr 0b11#2 := by decide
theorem test_decode_unk04 : decodeByte 0b00000110#8 = .unk04 0b10#2 := by decide
theorem test_decode_unk08 : decodeByte 0b00001101#8 = .unk08 0b101#3 := by decide
theorem test_decode_holdOn10 : decodeByte 0b00010000#8 = .holdOn10 := by decide
theorem test_decode_holdOn11 : decodeByte 0b00010001#8 = .holdOn11 1#4 := by decide
theorem test_decode_holdOn12 : decodeByte 0b00010011#8 = .holdOn12 3#4 := by decide
theorem test_decode_holdOn14 : decodeByte 0b00010110#8 = .holdOn14 6#4 := by decide
theorem test_decode_holdOn18 : decodeByte 0b00011111#8 = .holdOn18 15#4 := by decide
theorem test_decode_holdOff20 : decodeByte 0b00100000#8 = .holdOff20 := by decide
theorem test_decode_holdOff21 : decodeByte 0b00100001#8 = .holdOff21 1#4 := by decide
theorem test_decode_holdOff22 : decodeByte 0b00100010#8 = .holdOff22 2#4 := by decide
theorem test_decode_holdOff24 : decodeByte 0b00100101#8 = .holdOff24 5#4 := by decide
theorem test_decode_holdOff28 : decodeByte 0b00101010#8 = .holdOff28 10#4 := by decide
theorem test_decode_unk30 : decodeByte 0b00111001#8 = .unk30 9#4 := by decide
theorem test_decode_unk40 : decodeByte 0b01010110#8 = .unk40 0b10110#5 := by decide
theorem test_decode_unk60 : decodeByte 0b01101100#8 = .unk60 12#4 := by decide
theorem test_decode_unk70 : decodeByte 0b01110101#8 = .unk70 0b101#3 := by decide
theorem test_decode_unk78 : decodeByte 0b01111011#8 = .unk78 0b11#2 := by decide
theorem test_decode_unk7C : decodeByte 0b01111101#8 = .unk7C 1#1 := by decide
theorem test_decode_wspace : decodeByte 0b01111110#8 = .wspace := by decide
theorem test_decode_endMsg : decodeByte 0b01111111#8 = .endMsg := by decide
theorem test_decode_sym6 : decodeByte 0b10001100#8 = .sym6 0b001100#6 := by decide
theorem test_decode_sym5 : decodeByte 0b11010001#8 = .sym5 0b10001#5 := by decide
theorem test_decode_sym4 : decodeByte 0b11101101#8 = .sym4 0b1101#4 := by decide
theorem test_decode_sym3 : decodeByte 0b11110010#8 = .sym3 0b010#3 := by decide
theorem test_decode_sym2 : decodeByte 0b11111001#8 = .sym2 0b01#2 := by decide
theorem test_decode_sym1 : decodeByte 0b11111101#8 = .sym1 1#1 := by decide
theorem test_decode_rsvsym0 : decodeByte 0b11111110#8 = .rsvsym0 := by decide
theorem test_decode_rsvsym1 : decodeByte 0b11111111#8 = .rsvsym1 := by decide
theorem test_decode_rejects_by_name :
    (match decodeOne [] with | .error e => some e | .ok _ => none) = some .noByte ∧
    (match decodeOne [0x7E#8, 0x7F#8] with | .error e => some e | .ok _ => none) = some .trailingBytes := by decide
theorem test_decodeTableWord : decodeTableWord 8 0xF2 = some (.sym3 0b010#3) := by decide

/-! ## A small machine -/

/-- One transmitter, four buffers of four bytes. -/
def small : Params := { Params.chosen with nBeacons := 1, nBuffers := 4, msgCapacity := 4 }

/-- A transmitter at a byte boundary inside a tick, power mode 1, the carrier on after a hold. -/
def live : Beacon :=
  { Beacon.reset small with cur := some 0, idle := false, key := true, pwr := 1#2 }

/-- The machine with one transmitter. -/
def mk (b : Beacon) (t : Turn) (es : List Event := []) : State :=
  { State.resetWith small with beacons := [b], turn := t, events := es }

/-- The next state of an outcome, if it is one. -/
def nextOf (o : Host.Outcome State Fault Refusal) : Option State :=
  match o with
  | .next t => some t
  | _ => none

/-- What an instruction makes of the live transmitter, and whose turn it is then. -/
def run1 (i : Instr) : Option (Beacon × Turn) :=
  match nextOf (exec i (mk live (.interpret 0))) with
  | some t => t.beacons[0]?.map fun b => (b, t.turn)
  | none => none

/-- What a step makes of a transmitter, and whose turn it is then. -/
def step1 (b : Beacon) (t : Turn) (es : List Event := []) : Option (Beacon × Turn) :=
  match nextOf (step (mk b t es)) with
  | some t => t.beacons[0]?.map fun b => (b, t.turn)
  | none => none

/-! ## One step of each instruction (42, 43) -/

theorem test_setpwr : run1 (.setpwr 2#2) = some ({ live with pwr := 2#2, bytePos := 1 }, .interpret 0) := by decide
theorem test_unk04 : run1 (.unk04 1#2) = some ({ live with key := false, idle := true, cur := none }, .host) := by decide
theorem test_unk08 : run1 (.unk08 7#3) = some ({ live with key := false, idle := true, cur := none }, .host) := by decide
theorem test_holdOn10 : run1 .holdOn10 = some ({ live with bytePos := 1 }, .interpret 0) := by decide
theorem test_holdOn11 : run1 (.holdOn11 1#4) = some ({ live with cmdPause := 16#8 }, .host) := by decide
theorem test_holdOn12 : run1 (.holdOn12 2#4) = some ({ live with cmdPause := 32#8 }, .host) := by decide
theorem test_holdOn14 : run1 (.holdOn14 5#4) = some ({ live with cmdPause := 80#8 }, .host) := by decide
theorem test_holdOn18 : run1 (.holdOn18 15#4) = some ({ live with cmdPause := 240#8 }, .host) := by decide
theorem test_holdOff20 : run1 .holdOff20 = some ({ live with key := false, bytePos := 1 }, .interpret 0) := by decide
theorem test_holdOff21 : run1 (.holdOff21 1#4) = some ({ live with key := false, cmdPause := 16#8 }, .host) := by decide
theorem test_holdOff22 : run1 (.holdOff22 3#4) = some ({ live with key := false, cmdPause := 48#8 }, .host) := by decide
theorem test_holdOff24 : run1 (.holdOff24 7#4) = some ({ live with key := false, cmdPause := 112#8 }, .host) := by decide
theorem test_holdOff28 : run1 (.holdOff28 10#4) = some ({ live with key := false, cmdPause := 160#8 }, .host) := by decide
theorem test_unk30 : run1 (.unk30 0#4) = some ({ live with key := false, idle := true, cur := none }, .host) := by decide
theorem test_unk40 : run1 (.unk40 31#5) = some ({ live with key := false, idle := true, cur := none }, .host) := by decide
theorem test_unk60 : run1 (.unk60 0#4) = some ({ live with key := false, idle := true, cur := none }, .host) := by decide
theorem test_unk70 : run1 (.unk70 0#3) = some ({ live with key := false, idle := true, cur := none }, .host) := by decide
theorem test_unk78 : run1 (.unk78 0#2) = some ({ live with key := false, idle := true, cur := none }, .host) := by decide
theorem test_unk7C : run1 (.unk7C 1#1) = some ({ live with key := false, idle := true, cur := none }, .host) := by decide
theorem test_wspace : run1 .wspace = some ({ live with key := false, cmdPause := 5#8 }, .host) := by decide
theorem test_endMsg : run1 .endMsg = some ({ live with key := false, idle := true, cur := none }, .host) := by decide
theorem test_rsvsym0 : run1 .rsvsym0 = some ({ live with key := false, idle := true, cur := none }, .host) := by decide
theorem test_rsvsym1 : run1 .rsvsym1 = some ({ live with key := false, idle := true, cur := none }, .host) := by decide

/-- 95 V3: `shreg`, `bitPos` and `onPause` right after a Symbol byte is interpreted, with the carrier on. -/
def loaded (v : Byte) : Option (Byte × BitVec 3 × BitVec 2 × Bool) :=
  (run1 (decodeByte v)).map fun r => (r.1.shreg, r.1.bitPos, r.1.onPause, r.1.key)

theorem test_sym1_E : loaded 0xFC#8 = some (0x00#8, 0#3, 1#2, true) := by decide
theorem test_sym1_T : loaded 0xFD#8 = some (0x00#8, 0#3, 3#2, true) := by decide
theorem test_sym2_A : loaded 0xF9#8 = some (0x80#8, 1#3, 1#2, true) := by decide
theorem test_sym3_R : loaded 0xF2#8 = some (0x80#8, 2#3, 1#2, true) := by decide
theorem test_sym3_K : loaded 0xF5#8 = some (0x40#8, 2#3, 3#2, true) := by decide
theorem test_sym4_Q : loaded 0xED#8 = some (0xA0#8, 3#3, 3#2, true) := by decide
theorem test_sym5_0 : loaded 0xDF#8 = some (0xF0#8, 4#3, 3#2, true) := by decide
theorem test_sym5_5 : loaded 0xC0#8 = some (0x00#8, 4#3, 1#2, true) := by decide
theorem test_sym6_question : loaded 0x8C#8 = some (0x60#8, 5#3, 1#2, true) := by decide
theorem test_sym6_hyphen : loaded 0xA1#8 = some (0x08#8, 5#3, 3#2, true) := by decide

/-! ## One step of the other phases and of the host (42, 43, 44, 45) -/

/-- 42 R258 example's tick 5, 43 R285: the gap of a Symbol over, the byte boundary is reached in the same tick. -/
theorem test_symbol_end : step1 { live with key := false, bitPos := 0#3, offPause := 1#2 } (.tick 0) =
    some ({ live with key := false, bytePos := 1 }, .interpret 0) := by decide
/-- 95 program 1, tick 6: the last element's on phase ends and the 3-tick gap starts. -/
theorem test_last_element_ends : step1 { live with bitPos := 0#3, onPause := 1#2 } (.tick 0) =
    some ({ live with key := false, bitPos := 0#3, offPause := 3#2 }, .host) := by decide
/-- 95 program 1, tick 13: the next dash of `O` starts. -/
theorem test_next_element : step1 { live with key := false, shreg := 0xC0#8, bitPos := 2#3, offPause := 1#2 } (.tick 0) =
    some ({ live with shreg := 0x80#8, bitPos := 1#3, onPause := 3#2 }, .host) := by decide
/-- 95 V5: the hold of `11` at tick 17. -/
theorem test_hold_ends : step1 { live with cmdPause := 1#8 } (.tick 0) = some ({ live with bytePos := 1 }, .interpret 0) := by
  decide
/-- 95 V7: the disable in mid-dash. -/
theorem test_disable : step1 { live with bitPos := 0#3, onPause := 2#2, next := some 1 } .host [.setEnabled 0 false] =
    some ({ live with
      bitPos := 0#3, next := some 1, enabled := false, key := false, pwr := 0#2, idle := true, cur := none }, .host) := by
  decide
theorem test_handoff_refused_while_busy : (nextOf (step (mk live .host [.handoff 0 (some 1)]))).map (·.reply) =
    some (some (.accepted false)) := by decide
theorem test_pending_overwritten :
    (step1 { Beacon.reset small with next := some 1 } .host [.setNextMessage 0 (some 2)]).map (·.1.next) =
      some (some 2) := by decide
/-- The byte placed by withFetchWord is the one the very next step runs: 0x15 holds the carrier for 80 ticks. -/
theorem test_withFetchWord :
    (match nextOf (step (State.reset.withFetchWord 8 0x15)) with
      | some t => t.beacons[0]?.map fun b => (b.key, b.cmdPause)
      | none => none) = some (true, 80#8) := by decide
theorem test_write_keeps_canonical_form :
    (Memory.write [(2, 0x01#8)] 2 0x7F#8) = [] ∧ (Memory.write [(2, 0x01#8)] 1 0xFC#8) = [(1, 0xFC#8), (2, 0x01#8)] := by
  decide

/-- 70 R391: the step that interprets END ends the transmission of the buffer it was fetched from, no other's. -/
theorem test_transmitted : (∃ t, transmitted (mk live (.interpret 0)) t 0 0) ∧
    ¬ ∃ t, transmitted (mk live (.interpret 0)) t 0 1 :=
  ⟨⟨_, State.transmitted_of_step (v := 0x7F#8) rfl rfl rfl rfl (by decide) rfl⟩,
    fun ⟨_, _, ⟨b, hb, hc⟩, _⟩ => by
      obtain rfl : live = b := Option.some.inj hb
      exact absurd hc (by decide)⟩

/-! ## The encoders (40, 41; 95 V1, V9; 43 R288) -/

/-- 40 R130 to R139. -/
theorem test_digits : ([0x30#8, 0x31#8, 0x32#8, 0x33#8, 0x34#8, 0x35#8, 0x36#8, 0x37#8, 0x38#8, 0x39#8].map
    (encodeChar Params.chosen.extraPunct)) =
    [0xDF#8, 0xCF#8, 0xC7#8, 0xC3#8, 0xC1#8, 0xC0#8, 0xD0#8, 0xD8#8, 0xDC#8, 0xDE#8] := by decide
/-- 40 R140 to R165. -/
theorem test_letters : ((List.range 26).map fun n => encodeChar Params.chosen.extraPunct (BitVec.ofNat 8 (0x41 + n))) =
    [0xF9#8, 0xE8#8, 0xEA#8, 0xF4#8, 0xFC#8, 0xE2#8, 0xF6#8, 0xE0#8, 0xF8#8, 0xE7#8, 0xF5#8, 0xE4#8, 0xFB#8,
     0xFA#8, 0xF7#8, 0xE6#8, 0xED#8, 0xF2#8, 0xF0#8, 0xFD#8, 0xF1#8, 0xE1#8, 0xF3#8, 0xE9#8, 0xEB#8, 0xEC#8] := by
  decide
/-- 40 R166 to R174, R127, R178: `= ? / . , -`, space, null, `!`, 0xE9, `+`, `[`. -/
theorem test_other_characters :
    ([0x3D#8, 0x3F#8, 0x2F#8, 0x2E#8, 0x2C#8, 0x2D#8, 0x20#8, 0x00#8, 0x21#8, 0xE9#8, 0x2B#8, 0x5B#8].map
      (encodeChar Params.chosen.extraPunct)) =
    [0xD1#8, 0x8C#8, 0xD2#8, 0x95#8, 0xB3#8, 0xA1#8, 0x7E#8, 0x7F#8, 0x00#8, 0x00#8, 0x00#8, 0x00#8] := by decide
/-- 43 R288: E 4, T 6, J 16, Y 16, `0` 22, `?` 18, `,` 22. -/
theorem test_durations : ([0xFC#8, 0xFD#8, 0xE7#8, 0xEB#8, 0xDF#8, 0x8C#8, 0xB3#8].map byteTicks) =
    [4, 6, 16, 16, 22, 18, 22] := by decide

/-- The formatters of 95 S10 and S11: "4V2" on analog channel 3, "-11C" on temperature channel 0. -/
def sensors : Sensors :=
  { analog := Vector.replicate 16 ⟨[0x34#8, 0x56#8, 0x32#8], 4⟩
    temperature := Vector.replicate 8 ⟨[0x2D#8, 0x31#8, 0x31#8, 0x43#8], 5⟩ }

/-- `encodeMessage` under the default extras. -/
def enc (cap : Nat) (text : List Byte) : EncodeResult := encodeMessage Params.chosen.extraPunct sensors cap text

theorem test_encode_exact_fit : enc 4 [0x53#8, 0x4F#8, 0x53#8] = ⟨[0xF0#8, 0xF7#8, 0xF0#8, 0x7F#8], none⟩ := by decide
theorem test_encode_too_small : (enc 3 [0x53#8, 0x4F#8, 0x53#8]).error = some ⟨.bufferTooSmall, 2⟩ := by decide
theorem test_encode_empty : enc 1 [] = ⟨[0x7F#8], none⟩ := by decide
theorem test_encode_unencodable : (enc 16 [0x61#8, 0x21#8, 0x62#8]).error = some ⟨.unencodable, 1⟩ := by decide
theorem test_encode_analog : enc 16 [0x24#8, 0x41#8, 0x30#8, 0x33#8] = ⟨[0xC1#8, 0xE1#8, 0xC7#8, 0x7F#8], none⟩ := by
  decide
theorem test_encode_analog_16 : (enc 16 [0x24#8, 0x41#8, 0x31#8, 0x36#8]).error = some ⟨.outOfRangeDigit, 0⟩ := by decide
theorem test_encode_temperature : enc 6 [0x24#8, 0x54#8, 0x30#8] = ⟨[0xA1#8, 0xCF#8, 0xCF#8, 0xEA#8, 0x7F#8], none⟩ := by
  decide
theorem test_encode_temperature_precheck : (enc 5 [0x24#8, 0x54#8, 0x30#8]).error = some ⟨.bufferTooSmall, 0⟩ := by decide
/-- 41 R207: a broken promise on a channel the text does not use changes nothing. -/
theorem test_encode_unused_overlong :
    encodeMessage Params.chosen.extraPunct { sensors with temperature := Vector.replicate 8 ⟨[0x31#8, 0x31#8], 1⟩ } 16
      [0x24#8, 0x41#8, 0x30#8, 0x33#8] = ⟨[0xC1#8, 0xE1#8, 0xC7#8, 0x7F#8], none⟩ := by decide
/-- 41 R207: a broken promise on the channel used does not end the run (log 28). -/
theorem test_encode_overlong_runs : ∃ t, step (mk live .host [.encodeMessage 3 4 [0x24#8, 0x54#8, 0x30#8]
    { sensors with temperature := Vector.replicate 8 ⟨[0x31#8, 0x31#8], 1⟩ }]) = .next t := ⟨_, rfl⟩
theorem test_encode_dollar_at_end : (enc 16 [0x24#8]).error = some ⟨.malformedDirective, 0⟩ := by decide
theorem test_encode_program2 :
    enc 16 [0x24#8, 0x50#8, 0x32#8, 0x45#8, 0x20#8, 0x24#8, 0x2B#8, 0x31#8, 0x54#8] =
      ⟨[0x02#8, 0xFC#8, 0x7E#8, 0x11#8, 0xFD#8, 0x7F#8], none⟩ := by decide

/-! ## Witnesses: a state and operands that meet a statement's hypotheses together -/

theorem witness_DecodeOfEncode : (Instr.holdOn18 15#4).wf = true ∧ (Instr.sym6 63#6).wf = true := by decide
theorem witness_PackInvertsUnpack : 1 ≤ [Element.dot].length ∧ (List.replicate 6 Element.dash).length ≤ 6 ∧
    isSymbol 0x80#8 = true ∧ isSymbol 0xFD#8 = true := by decide

/-- Meets the hypotheses on the state of every result equation of an instruction: SetPowerEffect, HoldOnEffect,
HoldOffEffect, ZeroHoldEffect, WordSpaceEffect, EndMessageEffect, UnknownByteEndsMessage, ReservedSymbolEndsMessage,
SymbolEffect, ByteRuleSelection. -/
theorem witness_interpret_phase :
    (mk live (.interpret 0)).turn = .interpret 0 ∧ (mk live (.interpret 0)).beacons[0]? = some live := by decide
theorem witness_StepRunsDecodedByte :
    (mk live (.interpret 0)).turn = .interpret 0 ∧ (mk live (.interpret 0)).beacons[0]? = some live ∧
    live.cur = some 0 ∧ 0 < small.nBuffers ∧ decode [msgRead small [] 0 0] = .ok (.endMsg, []) :=
  ⟨rfl, rfl, rfl, by decide, rfl⟩
/-- The boundary: offset `MSG_CAPACITY`. -/
theorem witness_FetchPastEndRunsEnd :
    (mk { live with bytePos := 4 } (.interpret 0)).beacons[0]? = some { live with bytePos := 4 } ∧
    live.cur = some 0 ∧ 0 < small.nBuffers ∧ small.msgCapacity ≤ 4 := by decide
theorem witness_DisabledTickChangesNothing :
    (mk { Beacon.reset small with enabled := false, next := some 1 } (.tick 0)).beacons[0]? =
      some { Beacon.reset small with enabled := false, next := some 1 } := by decide
/-- One state for each clause: nothing pending, a message pending. -/
theorem witness_IdleTickAndAdoption :
    (Beacon.reset small).enabled = true ∧ (Beacon.reset small).idle = true ∧ (Beacon.reset small).next = none ∧
    ({ Beacon.reset small with next := some 3 } : Beacon).next = some 3 ∧
    ({ Beacon.reset small with next := some 3 } : Beacon).counting = false ∧
    (mk (Beacon.reset small) (.tick 0)).turn = .tick 0 := by decide
/-- Both branches: the largest hold and the last tick of one. -/
theorem witness_HoldCountdown :
    ({ live with cmdPause := 240#8 } : Beacon).cmdPause ≠ 0#8 ∧ ({ live with cmdPause := 1#8 } : Beacon).cmdPause = 1#8 ∧
    live.enabled = true ∧ live.idle = false ∧ (mk { live with cmdPause := 1#8 } (.tick 0)).turn = .tick 0 := by decide
theorem witness_OnPhaseCountdown :
    live.cmdPause = 0#8 ∧ ({ live with onPause := 3#2 } : Beacon).onPause ≠ 0#2 ∧
    ({ live with onPause := 1#2, bitPos := 0#3 } : Beacon).onPause = 1#2 ∧ live.enabled = true ∧ live.idle = false := by
  decide
theorem witness_NextElementStarts :
    live.onPause = 0#2 ∧ ({ live with offPause := 1#2, bitPos := 5#3 } : Beacon).offPause = 1#2 ∧
    ({ live with offPause := 1#2, bitPos := 5#3 } : Beacon).bitPos ≠ 0#3 ∧ live.cmdPause = 0#8 ∧ live.enabled = true ∧
    live.idle = false := by decide
theorem witness_GapCountdownAndSymbolEnd :
    ({ live with offPause := 2#2 } : Beacon).offPause ≠ 0#2 ∧ ({ live with offPause := 2#2 } : Beacon).offPause ≠ 1#2 ∧
    ({ live with offPause := 1#2, bitPos := 0#3 } : Beacon).offPause = 1#2 ∧
    ({ live with offPause := 1#2, bitPos := 0#3 } : Beacon).bitPos = 0#3 ∧ live.cmdPause = 0#8 ∧ live.onPause = 0#2 := by
  decide
/-- The boundary: the last byte position of all. -/
theorem witness_TickInterpretsBoundedBytes :
    ({ live with bytePos := 4 } : Beacon).cur = some 0 ∧ 0 < small.nBuffers ∧ 4 ≤ small.msgCapacity := by decide
theorem witness_CycleBegins :
    (mk live .host).turn = .host ∧ (mk live .host).beacons ≠ [] ∧ (mk live .host).events = [] ∧
    (mk live .host [.cycle]).events = .cycle :: [] := by decide

set_option synthInstance.maxSize 1000 in
theorem witness_CycleRefinesTick : State.reset.Inv ∧ State.reset.turn = .host := by decide
theorem witness_CycleOrderIrrelevant : [1, 0].Perm (List.range State.reset.beacons.length) := by decide
/-- One state for each form of the premise on the turn. -/
theorem witness_TickChangesOnlyItsBeacon :
    (∃ t, step (mk live (.interpret 0)) = .next t) ∧ ∃ t, step (mk live (.tick 0)) = .next t := ⟨⟨_, rfl⟩, ⟨_, rfl⟩⟩
/-- Two machines that differ in the diagnostic and agree on transmitter 0. -/
theorem witness_TransmitterReadsOnlyItself :
    ∃ t t', step (mk live (.interpret 0)) = .next t ∧
      step { mk live (.interpret 0) with diag := some ⟨⟨.unencodable, 0⟩, 4, [], sensors⟩ } = .next t' ∧
      (mk live (.interpret 0)).beacons[0]? = some live := ⟨_, _, rfl, rfl, rfl⟩

/-- Memory of one message of four bytes in buffer 0. -/
def msg (a b c d : Byte) : Memory := Memory.writeMany [] 0 [a, b, c, d]

/-- The first and the last Symbol value. -/
theorem witness_SymbolWaveform : small.boundaryExtraTick = false ∧ live.atByte small ∧
    live.fetch small (msg 0x80#8 0x7F#8 0x7F#8 0x7F#8) = .ok 0x80#8 ∧ isSymbol 0x80#8 = true ∧
    live.fetch small (msg 0xFD#8 0x7F#8 0x7F#8 0x7F#8) = .ok 0xFD#8 ∧ isSymbol 0xFD#8 = true :=
  ⟨rfl, by decide, rfl, by decide, rfl, by decide⟩
/-- The first and the last value of each range. -/
theorem witness_HoldDuration : small.boundaryExtraTick = false ∧ live.atByte small ∧
    live.fetch small (msg 0x11#8 0 0 0) = .ok 0x11#8 ∧ live.fetch small (msg 0x1F#8 0 0 0) = .ok 0x1F#8 ∧
    live.fetch small (msg 0x21#8 0 0 0) = .ok 0x21#8 ∧ live.fetch small (msg 0x2F#8 0 0 0) = .ok 0x2F#8 :=
  ⟨rfl, by decide, rfl, rfl, rfl, rfl⟩
/-- The shortest message (END at offset 0) and one that fills its buffer without a terminator. -/
theorem witness_MessageDuration :
    ({ Beacon.reset small with next := some 0 } : Beacon).counting = false ∧
    endsMessage (msgRead small (msg 0x7F#8 0 0 0) 0 0) = true ∧
    (∀ j < 4, endsMessage (msgRead small (msg 0xFC#8 0xFC#8 0xFC#8 0xFC#8) 0 j) = false) ∧
    endsMessage (msgRead small (msg 0xFC#8 0xFC#8 0xFC#8 0xFC#8) 0 4) = true ∧ 4 ≤ small.msgCapacity := by decide
theorem witness_SingleDotMessage : small.boundaryExtraTick = false ∧ 2 ≤ small.msgCapacity ∧ 0 < small.nBuffers ∧
    msgRead small (msg 0xFC#8 0x7F#8 0 0) 0 0 = 0xFC#8 ∧ msgRead small (msg 0xFC#8 0x7F#8 0 0) 0 1 = 0x7F#8 := by decide

/-- The last handle, given to a busy transmitter. -/
theorem witness_SetNextMessageInstalls :
    (mk live .host [.setNextMessage 0 (some 3)]).events = .setNextMessage 0 (some 3) :: [] ∧ 3 < small.nBuffers ∧
    ((mk live .host [.setNextMessage 0 (some 3)]).takeEvent []).heldElsewhere 0 3 = false := by decide
theorem witness_IsDoneAnswers : (mk live .host [.isDone 0]).turn = .host ∧
    (mk live .host [.isDone 0]).events = .isDone 0 :: [] ∧ (mk live .host).beacons[0]? = some live := by decide
theorem witness_EnableEffect : (mk live .host [.setEnabled 0 true]).events = .setEnabled 0 true :: [] ∧
    (mk live .host).beacons[0]? = some live ∧ (mk live .host).turn = .host := by decide
theorem witness_DisableEffect : (mk live .host [.setEnabled 0 false]).events = .setEnabled 0 false :: [] ∧
    (mk live .host).beacons[0]? = some live ∧ (mk live .host).turn = .host := by decide
theorem witness_DisableForgetsMessage : live.next = none := by decide
/-- One state for each clause: done, not done. -/
theorem witness_HandoffGate :
    (Beacon.reset small).isDone = true ∧ live.isDone = false ∧ 3 < small.nBuffers ∧
    ((mk (Beacon.reset small) .host [.handoff 0 (some 3)]).takeEvent []).heldElsewhere 0 3 = false := by decide
/-- The first index and the first handle out of range. -/
theorem witness_OutsideInterfaceRefused :
    (mk live .host [.isDone 1]).beacons.length ≤ 1 ∧ 0 < (mk live .host).beacons.length ∧
    (mk live .host [.handoff 0 (some 4)]).events = .handoff 0 (some 4) :: [] ∧ small.nBuffers ≤ 4 ∧
    (mk live .host [.setNextMessage 0 none]).events = .setNextMessage 0 none :: [] := by decide
/-- The last byte of the last buffer. -/
theorem witness_HostWriteEffect :
    (mk live .host [.writeByte 3 3 0#8]).events = .writeByte 3 3 0#8 :: [] ∧ 3 < small.nBuffers ∧
    3 < small.msgCapacity ∧ (mk live .host).mem.wf = true ∧
    ((mk live .host [.writeByte 3 3 0#8]).takeEvent []).lent 3 = false := by decide
/-- Transmitter 0 is sending buffer 0 and holds buffer 1 on loan; a second transmitter is idle. -/
theorem witness_HeldBufferRefused :
    live.isDone = false ∧ live.cur = some 0 ∧ (0, 1) ∈ ({ mk live .host with loans := [(0, 1)] } : State).loans ∧
    ({ mk live .host with beacons := [live, Beacon.reset small] } : State).beacons[1]? = some (Beacon.reset small) ∧
    (Beacon.reset small).isDone = true ∧ 3 < small.msgCapacity := by decide

set_option synthInstance.maxSize 1000 in
theorem witness_HeldBufferStable :
    (mk { live with cmdPause := 1#8 } .host).Inv ∧
    (∃ t, step (mk { live with cmdPause := 1#8 } .host [.writeByte 3 3 0#8]) = .next t) ∧
    ({ live with cmdPause := 1#8 } : Beacon).isDone = false ∧ live.cur = some 0 ∧
    ({ mk { live with cmdPause := 1#8 } .host with loans := [(0, 2)] } : State).Inv ∧
    (0, 2) ∈ ({ mk { live with cmdPause := 1#8 } .host with loans := [(0, 2)] } : State).loans :=
  ⟨by decide, ⟨_, rfl⟩, by decide, rfl, by decide, by decide⟩
theorem witness_MemoryChangedByHostOnly :
    ∃ t, step (mk live .host [.writeByte 3 3 0#8]) = .next t ∧ t.mem ≠ (mk live .host).mem := ⟨_, rfl, by decide⟩
theorem witness_ResetState : 1 < Params.chosen.nBeacons := by decide
theorem witness_ResetFromAnyState : (mk live .host [.reset]).turn = .host ∧ (mk live .host [.reset]).events = .reset :: [] := by
  decide
/-- Each turn: an enable between operations, a cycle that begins, an idle transmitter's tick. -/
theorem witness_QuietUntilHandOver :
    (∀ b ∈ (mk (Beacon.reset small) .host).beacons,
      b.idle = true ∧ b.next = none ∧ b.key = false ∧ b.pwr = 0#2) ∧
    (∃ t, step (mk (Beacon.reset small) .host [.setEnabled 0 true]) = .next t) ∧
    (∃ t, step (mk (Beacon.reset small) .host) = .next t) ∧
    ∃ t, step (mk (Beacon.reset small) (.tick 0)) = .next t := ⟨by decide, ⟨_, rfl⟩, ⟨_, rfl⟩, ⟨_, rfl⟩⟩
/-- The ends of both ranges of letters. -/
theorem witness_LetterCaseIrrelevant :
    isLetter 0x41#8 = true ∧ isLetter 0x5A#8 = true ∧ isLetter 0x61#8 = true ∧ isLetter 0x7A#8 = true := by decide
/-- A letter; an extra with the longest pattern. -/
theorem witness_CharacterDecodingLaw : morsePattern 0x52#8 = some [.dot, .dash, .dot] ∧ Params.chosen.wf = true ∧
    Params.chosen.extraPunct.lookup 0x2D#8 = some (pack [.dash, .dot, .dot, .dot, .dot, .dash]) := by decide
theorem witness_CharacterOutputForms : Params.chosen.wf = true ∧
    Params.chosen.extraPunct.lookup 0x2D#8 = some 0xA1#8 := by decide
/-- A text of three characters: the capacities 4 (it fits) and 3 (it does not). -/
theorem witness_PlainTextEncodes :
    (∀ c ∈ [0x53#8, 0x4F#8, 0x53#8], c ≠ 0x24#8 ∧ c ≠ 0x00#8 ∧ encodeChar [] c ≠ 0x00#8) ∧
    [0x53#8, 0x4F#8, 0x53#8].length < 4 ∧ 3 ≤ [0x53#8, 0x4F#8, 0x53#8].length := by decide
theorem witness_DirectivesEncode : 2 ≤ 2 ∧ 0 ≤ 9 ∧ 3 ≤ 9 ∧ 4 ≤ 9 := by decide
theorem witness_EncodeLeavesCompiledMessage :
    (mk live .host [.encodeMessage 3 4 [0x45#8] sensors]).params.wf = true ∧
    (mk live .host [.encodeMessage 3 4 [0x45#8] sensors]).mem.wf = true ∧ 3 < small.nBuffers ∧ 4 ≤ small.msgCapacity ∧
    ((mk live .host [.encodeMessage 3 4 [0x45#8] sensors]).takeEvent []).lent 3 = false := by decide
theorem witness_EncoderQuestionsAnswer : (mk live .host [.encodeChar 0x45#8]).events = .encodeChar 0x45#8 :: [] ∧
    (mk live .host [.getLastEncodeError]).events = .getLastEncodeError :: [] := by decide
theorem witness_InvariantAtReset : small.wf = true ∧ Params.chosen.wf = true := by decide

set_option synthInstance.maxSize 1000 in
/-- A state of each turn that has the invariant and a next state; NoFaultUnderInvariant has the same premise. -/
theorem witness_InvariantKept :
    (mk { live with cmdPause := 1#8 } .host).Inv ∧ (mk { live with cmdPause := 1#8 } (.tick 0)).Inv ∧
    (mk live (.interpret 0)).Inv ∧ (∃ t, step (mk { live with cmdPause := 1#8 } .host) = .next t) ∧
    (∃ t, step (mk { live with cmdPause := 1#8 } (.tick 0)) = .next t) ∧
    ∃ t, step (mk live (.interpret 0)) = .next t :=
  ⟨by decide, by decide, by decide, ⟨_, rfl⟩, ⟨_, rfl⟩, ⟨_, rfl⟩⟩

/-- The live transmitter about to interpret SETPWR 3. -/
def aboutToSetPower : State := { mk live (.interpret 0) with mem := msg 0x03#8 0x7F#8 0x7F#8 0x7F#8 }

theorem witness_PowerModeWriters : ∃ t b b', aboutToSetPower.params.endClearsPwr = false ∧
    step aboutToSetPower = .next t ∧ aboutToSetPower.beacons[0]? = some b ∧ t.beacons[0]? = some b' ∧ b'.pwr ≠ b.pwr :=
  ⟨_, live, { live with pwr := 3#2, bytePos := 1 }, rfl, rfl, rfl, by decide, by decide⟩
/-- A next element turns the carrier on; END turns it off. -/
theorem witness_KeyWriters :
    (step1 { live with key := false, bitPos := 1#3, offPause := 1#2 } (.tick 0)).map (·.1.key) = some true ∧
    (step1 live (.interpret 0)).map (·.1.key) = some false ∧ live.key = true := by decide

set_option synthInstance.maxSize 1000 in
/-- Adoption, with the invariant. -/
theorem witness_ProgramCounterMoves : (mk { Beacon.reset small with next := some 3 } (.tick 0)).Inv ∧
    ∃ t, step (mk { Beacon.reset small with next := some 3 } (.tick 0)) = .next t := ⟨by decide, ⟨_, rfl⟩⟩

end Sys2Proof.Tests
end

section
/-! SUPPORT. What the decoder tells of the byte it read, and from it what a fetched byte does to a transmitter, said
once by the byte's range (42_transmitter_tick_and_control_bytes.md R246). -/

namespace Sys2Proof.Machine

/-- The byte lies in the range that 42 R246 gives the instruction, and a timed hold has a nonzero duration code. -/
def inRangeOf (v : Byte) : Instr → Bool
  | .setpwr m => decide (v ≤ 0x03#8 ∧ m = v.extractLsb' 0 2)
  | .holdOn10 => decide (v = 0x10#8)
  | .holdOff20 => decide (v = 0x20#8)
  | .holdOn11 d | .holdOn12 d | .holdOn14 d | .holdOn18 d => decide (0x11#8 ≤ v ∧ v ≤ 0x1F#8 ∧ d ≠ 0#4)
  | .holdOff21 d | .holdOff22 d | .holdOff24 d | .holdOff28 d => decide (0x21#8 ≤ v ∧ v ≤ 0x2F#8 ∧ d ≠ 0#4)
  | .wspace => decide (v = 0x7E#8)
  | .sym6 _ | .sym5 _ | .sym4 _ | .sym3 _ | .sym2 _ | .sym1 _ => isSymbol v
  | .unk04 _ | .unk08 _ | .unk30 _ | .unk40 _ | .unk60 _ | .unk70 _ | .unk78 _ | .unk7C _ | .endMsg | .rsvsym0
  | .rsvsym1 => endsMessage v

theorem inRangeOf_decodeByte (v : Byte) : inRangeOf v (decodeByte v) = true := by
  revert v
  decide

/-- The effects a byte `v` can have on transmitter `b`, one constructor per byte rule, with the range of bytes that
selects it. -/
inductive ByteEffect (v : Byte) (p : Params) (b : Beacon) : Beacon × ByteEnd → Prop where
  | setPower (hv : v ≤ 0x03#8) : ByteEffect v p b (b.setPower (v.extractLsb' 0 2), .cont)
  | zeroHoldOn (hv : v = 0x10#8) : ByteEffect v p b (b.zeroHold true, .cont)
  | zeroHoldOff (hv : v = 0x20#8) : ByteEffect v p b (b.zeroHold false, .cont)
  | holdOn (d : BitVec 4) (hd : d ≠ 0#4) (lo : 0x11#8 ≤ v) (hi : v ≤ 0x1F#8) :
      ByteEffect v p b (b.startHold true (holdTicks d), .ret)
  | holdOff (d : BitVec 4) (hd : d ≠ 0#4) (lo : 0x21#8 ≤ v) (hi : v ≤ 0x2F#8) :
      ByteEffect v p b (b.startHold false (holdTicks d), .ret)
  | space (hv : v = 0x7E#8) : ByteEffect v p b (b.startHold false spaceTicks, .ret)
  | symbol {n : Nat} (bits : BitVec n) (hn : n ≤ 6) (hv : isSymbol v = true) :
      ByteEffect v p b (b.keySymbol bits, .ret)
  | ends (hv : endsMessage v = true) : ByteEffect v p b (b.endReaction p, .ret)

/-- Every byte has the effect of its range. -/
theorem byteEffect_decodeByte (v : Byte) (p : Params) (b : Beacon) : ByteEffect v p b (effect (decodeByte v) p b) := by
  have h := inRangeOf_decodeByte v
  generalize decodeByte v = i at h
  cases i with
  | setpwr m =>
    obtain ⟨hv, rfl⟩ := of_decide_eq_true h
    exact .setPower hv
  | holdOn10 => exact .zeroHoldOn (of_decide_eq_true h)
  | holdOff20 => exact .zeroHoldOff (of_decide_eq_true h)
  | holdOn11 d | holdOn12 d | holdOn14 d | holdOn18 d =>
    obtain ⟨lo, hi, hd⟩ := of_decide_eq_true h
    exact .holdOn d hd lo hi
  | holdOff21 d | holdOff22 d | holdOff24 d | holdOff28 d =>
    obtain ⟨lo, hi, hd⟩ := of_decide_eq_true h
    exact .holdOff d hd lo hi
  | wspace => exact .space (of_decide_eq_true h)
  | sym6 bits | sym5 bits | sym4 bits | sym3 bits | sym2 bits | sym1 bits => exact .symbol bits (by decide) h
  | unk04 | unk08 | unk30 | unk40 | unk60 | unk70 | unk78 | unk7C | endMsg | rsvsym0 | rsvsym1 => exact .ends h

/-- A timed hold counts 16 to 240 ticks (30 R96). -/
theorem holdTicks_bounds {d : BitVec 4} (hd : d ≠ 0#4) : holdTicks d ≠ 0#8 ∧ holdTicks d ≤ 240#8 := by
  revert d
  decide

theorem elementTicks_ne_zero (dash : Bool) : elementTicks dash ≠ 0#2 := by
  cases dash <;> decide

end Sys2Proof.Machine
end

section
/-! SUPPORT. The invariant of a transmitter (Safety.lean) read by its phase: idle, or active in one of four phases
between operations, or at a byte inside its tick. -/

namespace Sys2Proof.Machine

variable {p : Params} {b b' : Beacon}

/-- What holds of an active transmitter in each of its phases. -/
structure Beacon.Active (p : Params) (b : Beacon) : Prop where
  enabled : b.enabled = true
  idle : b.idle = false
  cur : b.cur ≠ none
  curOk : slotOk p b.cur
  nextOk : slotOk p b.next

/-- The phases of an active transmitter between operations: the named states of 10 R44 by their running counter, and
the boundary at which the extra tick of log 13 is due. -/
inductive Beacon.Phase (p : Params) (b : Beacon) : Prop where
  | hold (hc : b.cmdPause ≠ 0#8) (ho : b.onPause = 0#2) (hf : b.offPause = 0#2) (bit : b.bitPos = 7#3)
      (le : b.cmdPause ≤ 240#8) (pos : b.bytePos < p.msgCapacity)
  | on (hc : b.cmdPause = 0#8) (ho : b.onPause ≠ 0#2) (hf : b.offPause = 0#2) (bit : b.bitPos ≤ 5#3)
      (key : b.key = true) (pos : b.bytePos < p.msgCapacity)
  | gap (hc : b.cmdPause = 0#8) (ho : b.onPause = 0#2) (hf : b.offPause ≠ 0#2) (bit : b.bitPos ≤ 5#3)
      (key : b.key = false) (one : b.bitPos ≠ 0#3 → b.offPause = 1#2) (pos : b.bytePos < p.msgCapacity)
  | due (hc : b.cmdPause = 0#8) (ho : b.onPause = 0#2) (hf : b.offPause = 0#2) (extra : p.boundaryExtraTick = true)
      (bit : b.bitPos = 7#3) (pos : b.bytePos ≤ p.msgCapacity)

theorem Beacon.counting_eq_false : b.counting = false ↔ b.cmdPause = 0#8 ∧ b.onPause = 0#2 ∧ b.offPause = 0#2 := by
  simp [Beacon.counting, and_assoc]

theorem Beacon.counting_eq_true : b.counting = true ↔ b.cmdPause ≠ 0#8 ∨ b.onPause ≠ 0#2 ∨ b.offPause ≠ 0#2 := by
  simp [Beacon.counting, or_assoc]

theorem slotOk_none : slotOk p none := by simp [slotOk]

theorem slotOk_some {m : Handle} (hm : m < p.nBuffers) : slotOk p (some m) := by simpa [slotOk] using hm

/-- The settled idle transmitters. -/
theorem Beacon.settled_iff_of_idle (hi : b.idle = true) :
    b.settled p ↔ b.cur = none ∧ b.counting = false ∧ b.key = false ∧ (b.enabled = false → b.pwr = 0#2) ∧
      b.bytePos ≤ p.msgCapacity ∧ slotOk p b.next := by
  constructor
  · rintro ⟨cur, -, idle, -, key, dis, pos, -, -, -, -, -, -, next⟩
    exact ⟨cur.mpr hi, idle hi, key hi, fun he => (dis he).2, pos, next⟩
  · rintro ⟨cur, idle, key, pwr, pos, next⟩
    have ⟨hc, ho, hf⟩ := Beacon.counting_eq_false.mp idle
    exact ⟨by simp [cur, hi], ⟨by simp [hc], by simp [ho]⟩, fun _ => idle, by simp [hi], fun _ => key,
      fun he => ⟨hi, pwr he⟩, pos, by simp [idle], by simp [hc], by simp [ho], by simp [hf], by simp [hf],
      cur ▸ slotOk_none, next⟩

/-- The settled active transmitters: one of the four phases. -/
theorem Beacon.settled_iff_of_active (hi : b.idle = false) : b.settled p ↔ b.Active p ∧ b.Phase p := by
  constructor
  · rintro ⟨cur, ⟨excl, excl'⟩, -, run, -, dis, pos, inside, hold, on, gap, one, curOk, nextOk⟩
    have en : b.enabled = true := by simpa [hi] using dis
    refine ⟨⟨en, hi, by simp [cur, hi], curOk, nextOk⟩, ?_⟩
    by_cases hc : b.cmdPause = 0#8
    · by_cases ho : b.onPause = 0#2
      · by_cases hf : b.offPause = 0#2
        · have still := Beacon.counting_eq_false.mpr ⟨hc, ho, hf⟩
          obtain ⟨extra, bit⟩ := (run hi).resolve_left (by simp [still])
          exact .due hc ho hf extra bit pos
        · exact .gap hc ho hf (gap hf).1 (gap hf).2 (one hf) (inside (Beacon.counting_eq_true.mpr (.inr (.inr hf))))
      · exact .on hc ho (excl' ho) (on ho).1 (on ho).2 (inside (Beacon.counting_eq_true.mpr (.inr (.inl ho))))
    · exact .hold hc (excl hc).1 (excl hc).2 (hold hc).1 (hold hc).2 (inside (Beacon.counting_eq_true.mpr (.inl hc)))
  · rintro ⟨⟨en, -, cur, curOk, nextOk⟩, phase⟩
    suffices h : b.exclusive ∧ (b.counting = true ∨ (p.boundaryExtraTick = true ∧ b.bitPos = 7#3)) ∧
        b.bytePos ≤ p.msgCapacity ∧ (b.counting = true → b.bytePos < p.msgCapacity) ∧
        (b.cmdPause ≠ 0#8 → b.bitPos = 7#3 ∧ b.cmdPause ≤ 240#8) ∧
        (b.onPause ≠ 0#2 → b.bitPos ≤ 5#3 ∧ b.key = true) ∧ (b.offPause ≠ 0#2 → b.bitPos ≤ 5#3 ∧ b.key = false) ∧
        (b.offPause ≠ 0#2 → b.bitPos ≠ 0#3 → b.offPause = 1#2) by
      obtain ⟨excl, run, pos, inside, hold, on, gap, one⟩ := h
      exact ⟨by simp [cur, hi], excl, by simp [hi], fun _ => run, by simp [hi], by simp [en], pos, inside, hold, on,
        gap, one, curOk, nextOk⟩
    simp only [Beacon.exclusive, Beacon.counting_eq_true]
    cases phase with
    | hold hc ho hf bit le pos => simp [hc, ho, hf, bit, le, pos, Nat.le_of_lt pos]
    | on hc ho hf bit key pos => simp [hc, ho, hf, bit, key, pos, Nat.le_of_lt pos]
    | gap hc ho hf bit key one pos => simpa [hc, ho, hf, bit, key, pos, Nat.le_of_lt pos] using one
    | due hc ho hf extra bit pos => simp [hc, ho, hf, extra, bit, pos]

/-- The transmitters at a byte inside their tick. -/
theorem Beacon.atByte_iff :
    b.atByte p ↔ b.Active p ∧ b.bitPos = 7#3 ∧ b.counting = false ∧ b.bytePos ≤ p.msgCapacity := by
  constructor
  · rintro ⟨en, hi, cur, bit, still, pos, curOk, nextOk⟩
    exact ⟨⟨en, hi, cur, curOk, nextOk⟩, bit, still, pos⟩
  · rintro ⟨⟨en, hi, cur, curOk, nextOk⟩, bit, still, pos⟩
    exact ⟨en, hi, cur, bit, still, pos, curOk, nextOk⟩

end Sys2Proof.Machine
end

section
/-! SUPPORT. Every move of a transmitter keeps its invariant: the phases of a tick, a byte's effect, and the host's
operations. -/

namespace Sys2Proof.Machine

variable {p : Params} {m : Memory} {b b' : Beacon}

/-- What a transmitter satisfies after its part of a step: the precondition of the interpret phase when that follows,
else the invariant between operations. -/
def Beacon.OkAfter (p : Params) (b : Beacon) (interpreting : Bool) : Prop :=
  if interpreting then b.atByte p else b.settled p

theorem Beacon.Active.okAfter_phase (act : b.Active p) (phase : b.Phase p) : b.OkAfter p false :=
  (Beacon.settled_iff_of_active act.idle).mpr ⟨act, phase⟩

/-- A byte boundary that an expiring counter reached, with or without the extra tick of log 13. -/
theorem Beacon.Active.okAfter_boundary (act : b.Active p) (hc : b.cmdPause = 0#8) (ho : b.onPause = 0#2)
    (hf : b.offPause = 0#2) (bit : b.bitPos = 7#3) (pos : b.bytePos ≤ p.msgCapacity) :
    b.OkAfter p (!p.boundaryExtraTick) := by
  cases extra : p.boundaryExtraTick with
  | false => exact Beacon.atByte_iff.mpr ⟨act, bit, Beacon.counting_eq_false.mpr ⟨hc, ho, hf⟩, pos⟩
  | true => exact act.okAfter_phase (.due hc ho hf extra bit pos)

/-- The counter phase (42 R243) takes an active transmitter to its next phase or to its next byte. -/
theorem Beacon.counterPhase_ok {go : Bool} (hs : b.settled p) (hi : b.idle = false)
    (h : b.counterPhase p = (b', go)) : b'.OkAfter p go := by
  obtain ⟨⟨en, -, cur, curOk, nextOk⟩, -⟩ := (Beacon.settled_iff_of_active hi).mp hs
  obtain ⟨-, ⟨excl, excl'⟩, -, run, -, -, pos, inside, hold, on, gap, one, -, -⟩ := hs
  rw [Beacon.counting_eq_true] at inside
  rcases Beacon.counterPhase_cases h with ⟨hc, hz, rfl, rfl⟩ | ⟨hc, hz, rfl, rfl⟩ | ⟨hc, ho, hz, rfl, rfl⟩ |
    ⟨hc, ho, hz, rfl, rfl⟩ | ⟨hc, ho, hf, hz, rfl, rfl⟩ | ⟨hc, ho, hf, hz, hb, rfl, rfl⟩ |
    ⟨hc, ho, hf, hz, hb, rfl, rfl⟩ | ⟨hc, ho, hf, rfl, rfl⟩
  · -- the hold goes on
    have ⟨bit, le⟩ := hold hc
    have le' : b.cmdPause - 1#8 ≤ 240#8 := by bv_omega
    exact Beacon.Active.okAfter_phase ⟨en, hi, cur, curOk, nextOk⟩
      (.hold hz (excl hc).1 (excl hc).2 bit le' (inside (.inl hc)))
  · -- the hold ends
    exact Beacon.Active.okAfter_boundary ⟨en, hi, cur, curOk, nextOk⟩ rfl (excl hc).1 (excl hc).2 rfl (inside (.inl hc))
  · -- the element goes on
    exact Beacon.Active.okAfter_phase ⟨en, hi, cur, curOk, nextOk⟩
      (.on hc hz (excl' ho) (on ho).1 (on ho).2 (inside (.inr (.inl ho))))
  · -- the element ends: a gap of one tick, or of three after the last element
    have hf' : (if b.bitPos = 0#3 then 3#2 else 1#2) ≠ 0#2 := by split <;> decide
    exact Beacon.Active.okAfter_phase ⟨en, hi, cur, curOk, nextOk⟩
      (.gap hc rfl hf' (on ho).1 rfl (fun hb => if_neg hb) (inside (.inr (.inl ho))))
  · -- the gap goes on, so it is the one after the last element
    have last : b.bitPos = 0#3 := by
      by_contra hb
      rw [one hf hb] at hz
      exact hz (by decide)
    exact Beacon.Active.okAfter_phase ⟨en, hi, cur, curOk, nextOk⟩
      (.gap hc ho hz (gap hf).1 (gap hf).2 (fun hb => absurd last hb) (inside (.inr (.inr hf))))
  · -- the next element starts
    have bit := (gap hf).1
    have bit' : b.bitPos - 1#3 ≤ 5#3 := by bv_omega
    exact Beacon.Active.okAfter_phase ⟨en, hi, cur, curOk, nextOk⟩
      (.on hc (elementTicks_ne_zero _) rfl bit' rfl (inside (.inr (.inr hf))))
  · -- the Symbol ends
    exact Beacon.Active.okAfter_boundary ⟨en, hi, cur, curOk, nextOk⟩ hc ho rfl rfl (inside (.inr (.inr hf)))
  · -- no counter runs: the extra tick was due
    have still := Beacon.counting_eq_false.mpr ⟨hc, ho, hf⟩
    have bit := ((run hi).resolve_left (by simp [still])).2
    exact Beacon.atByte_iff.mpr ⟨⟨en, hi, cur, curOk, nextOk⟩, bit, still, pos⟩

/-- With no counter running the interpret phase follows (42 R243). -/
theorem Beacon.counterPhase_of_still (still : b.counting = false) : b.counterPhase p = (b, true) := by
  obtain ⟨hc, ho, hf⟩ := Beacon.counting_eq_false.mp still
  simp [Beacon.counterPhase, hc, ho, hf]

/-- The phases P0 to P2 of a tick (42 R240) keep the transmitter's invariant. -/
theorem Beacon.tickPhases_ok {go : Bool} (hs : b.settled p) (h : b.tickPhases p = (b', go)) : b'.OkAfter p go := by
  rcases Beacon.tickPhases_cases h with ⟨-, rfl, rfl⟩ | ⟨-, -, -, rfl, rfl⟩ | ⟨n, en, hi, hn, h⟩ | ⟨-, hi, h⟩
  · exact hs
  · exact hs
  · obtain ⟨-, still, -, -, -, nextOk⟩ := (Beacon.settled_iff_of_idle hi).mp hs
    rw [Beacon.counterPhase_of_still (b := b.adopt n) still] at h
    obtain ⟨rfl, rfl⟩ := Prod.mk.inj h
    exact Beacon.atByte_iff.mpr
      ⟨⟨en, rfl, by simp, slotOk_some (nextOk n hn), slotOk_none⟩, rfl, still, Nat.zero_le _⟩
  · exact Beacon.counterPhase_ok hs hi h

/-- A byte that does not end the message was read from inside the buffer (20 R66). -/
theorem Beacon.fetch_inside {v : Byte} (h : b.fetch p m = .ok v) (hv : v ≠ 0x7F#8) : b.bytePos < p.msgCapacity := by
  by_contra hout
  simp only [Beacon.fetch, msgRead, if_neg hout] at h
  split at h
  · cases h
  · split at h
    · exact hv (Except.ok.inj h).symm
    · cases h

/-- A byte's effect keeps the transmitter's invariant: it stays at a byte when the rule continues (42 R245). -/
theorem ByteEffect.okAfter {v : Byte} {r : Beacon × ByteEnd} (h : ByteEffect v p b r) (hb : b.atByte p)
    (hf : b.fetch p m = .ok v) : r.1.OkAfter p (decide (r.2 = .cont)) := by
  obtain ⟨act, bit, still, pos⟩ := Beacon.atByte_iff.mp hb
  obtain ⟨hc, ho, hoff⟩ := Beacon.counting_eq_false.mp still
  have inside := Beacon.fetch_inside hf
  obtain ⟨en, hi, cur, curOk, nextOk⟩ := act
  cases h with
  | setPower hv =>
    exact Beacon.atByte_iff.mpr ⟨⟨en, hi, cur, curOk, nextOk⟩, bit, still, inside (by rintro rfl; revert hv; decide)⟩
  | zeroHoldOn hv | zeroHoldOff hv =>
    exact Beacon.atByte_iff.mpr ⟨⟨en, hi, cur, curOk, nextOk⟩, bit, still, inside (by simp [hv])⟩
  | holdOn d hd lo hle | holdOff d hd lo hle =>
    have ⟨ne, le⟩ := holdTicks_bounds hd
    exact Beacon.Active.okAfter_phase ⟨en, hi, cur, curOk, nextOk⟩
      (.hold ne ho hoff bit le (inside (by rintro rfl; revert hle; decide)))
  | space hv =>
    exact Beacon.Active.okAfter_phase ⟨en, hi, cur, curOk, nextOk⟩
      (.hold (by decide : spaceTicks ≠ 0#8) ho hoff bit (by decide : spaceTicks ≤ 240#8) (inside (by simp [hv])))
  | @symbol n bits hn hv =>
    have left : BitVec.ofNat 3 (n - 1) ≤ 5#3 := by
      simp only [BitVec.le_def, BitVec.toNat_ofNat]
      omega
    exact Beacon.Active.okAfter_phase ⟨en, hi, cur, curOk, nextOk⟩
      (.on hc (elementTicks_ne_zero _) hoff left rfl (inside (by rintro rfl; revert hv; decide)))
  | ends hv =>
    exact (Beacon.settled_iff_of_idle rfl).mpr ⟨rfl, still, rfl, by simp [en], pos, nextOk⟩

/-- `setNextMessage` with the handle of a buffer (44 R301). -/
theorem Beacon.settled_setNext {n : Handle} (hs : b.settled p) (hn : n < p.nBuffers) : (b.setNext n).settled p := by
  obtain ⟨cur, excl, still, run, key, dis, pos, inside, hold, on, gap, one, curOk, -⟩ := hs
  exact ⟨cur, excl, still, run, key, dis, pos, inside, hold, on, gap, one, curOk, slotOk_some hn⟩

theorem Beacon.settled_enable (hs : b.settled p) : b.enable.settled p := by
  obtain ⟨cur, excl, still, run, key, -, pos, inside, hold, on, gap, one, curOk, nextOk⟩ := hs
  exact ⟨cur, excl, still, run, key, by simp, pos, inside, hold, on, gap, one, curOk, nextOk⟩

theorem Beacon.settled_disable (hs : b.settled p) : (b.disable p).settled p := by
  obtain ⟨-, -, -, -, -, -, pos, -, -, -, -, -, -, nextOk⟩ := hs
  have nextOk' : slotOk p (b.disable p).next := by
    rw [Beacon.disable_next]
    split
    · exact slotOk_none
    · exact nextOk
  exact (Beacon.settled_iff_of_idle rfl).mpr ⟨rfl, rfl, rfl, fun _ => rfl, pos, nextOk'⟩

theorem Beacon.settled_reset : (Beacon.reset p).settled p :=
  (Beacon.settled_iff_of_idle rfl).mpr ⟨rfl, rfl, rfl, fun _ => rfl, Nat.zero_le _, slotOk_none⟩

end Sys2Proof.Machine
end

section
/-! O56. Every step keeps the invariant of the machine: by whose turn it is, from the transmitter's own moves. -/

namespace Sys2Proof.Machine

variable {s t : State} {k : Nat} {b c : Beacon}

theorem State.turnAfter_ne_interpret (s : State) (k j : Nat) : s.turnAfter k ≠ .interpret j := by
  unfold State.turnAfter
  split <;> simp

theorem State.turnOk_turnAfter (s : State) (k : Nat) : ∀ j ∈ (s.turnAfter k).beacon?, j < s.beacons.length := by
  unfold State.turnAfter
  split
  · rename_i hk
    simpa [Turn.beacon?] using hk
  · simp [Turn.beacon?]

/-- The invariant gives what holds of each transmitter the array has. -/
theorem State.Inv.beaconOk (hs : s.Inv) (hb : s.beacons[k]? = some b) :
    (s.turn = .interpret k → b.atByte s.params) ∧ (s.turn ≠ .interpret k → b.settled s.params) := by
  obtain ⟨-, -, -, -, -, ok⟩ := hs
  exact ok k (List.getElem?_eq_some_iff.mp hb).1 b hb

/-- A step inside beacon `k`'s tick keeps the invariant when it leaves that beacon as its next turn asks. -/
theorem State.Inv.set_in_tick (hs : s.Inv) (ht : s.turn = .tick k ∨ s.turn = .interpret k)
    (hb : s.beacons[k]? = some b) {go : Bool} (hc : c.OkAfter s.params go) :
    ({ s with beacons := s.beacons.set k c, turn := if go then .interpret k else s.turnAfter k } : State).Inv := by
  have hk := (List.getElem?_eq_some_iff.mp hb).1
  have others : ∀ j, j ≠ k → ∀ d, s.beacons[j]? = some d → d.settled s.params := by
    intro j hj d hd
    refine (hs.beaconOk hd).2 ?_
    rcases ht with ht | ht <;> simp [ht, Ne.symm hj]
  obtain ⟨params, len, mem, bounded, -, -⟩ := hs
  refine ⟨params, by simpa using len, mem, bounded, ?_, ?_⟩
  · cases go with
    | true => simpa [State.turnOk, Turn.beacon?] using hk
    | false => simpa [State.turnOk] using s.turnOk_turnAfter k
  · intro j _ d hd
    simp only at hd
    by_cases e : k = j
    · subst e
      obtain rfl : c = d := by simpa [hk] using hd
      cases go with
      | true => exact ⟨fun _ => hc, fun h => absurd rfl h⟩
      | false => exact ⟨fun h => absurd h (s.turnAfter_ne_interpret k k), fun _ => hc⟩
    · rw [List.getElem?_set_ne e] at hd
      refine ⟨fun h => absurd h ?_, fun _ => others j (Ne.symm e) d hd⟩
      cases go with
      | true => simpa using e
      | false => exact s.turnAfter_ne_interpret k j

theorem State.Inv.step_tick (hs : s.Inv) (ht : s.turn = .tick k) (h : step s = .next t) : t.Inv := by
  obtain ⟨b, hb, rfl⟩ := State.step_tick_next ht h
  have settled := (hs.beaconOk hb).2 (by simp [ht])
  exact hs.set_in_tick (.inl ht) hb (Beacon.tickPhases_ok settled rfl)

theorem State.turnOf_eq (s : State) (k : Nat) (fin : ByteEnd) :
    s.turnOf k fin = if decide (fin = .cont) then .interpret k else s.turnAfter k := by
  cases fin <;> rfl

theorem State.fetchByte_eq (hb : s.beacons[k]? = some b) : s.fetchByte k = b.fetch s.params s.mem := by
  simp [State.fetchByte, hb]

theorem State.Inv.step_interpret (hs : s.Inv) (ht : s.turn = .interpret k) (h : step s = .next t) : t.Inv := by
  obtain ⟨b, v, hb, hv, rfl⟩ := State.step_interpret_next ht h
  rw [State.fetchByte_eq hb] at hv
  rw [State.turnOf_eq]
  exact hs.set_in_tick (.inr ht) hb ((byteEffect_decodeByte v s.params b).okAfter ((hs.beaconOk hb).1 ht) hv)

/-- Between operations the invariant says the same of every transmitter. -/
theorem State.inv_iff_of_host (ht : s.turn = .host) :
    s.Inv ↔ s.params.wf = true ∧ s.beacons.length = s.params.nBeacons ∧ s.mem.wf = true ∧ s.memBounded ∧
      ∀ b ∈ s.beacons, b.settled s.params := by
  constructor
  · intro hs
    have all : ∀ b ∈ s.beacons, b.settled s.params := by
      intro b hb
      obtain ⟨k, hk⟩ := List.mem_iff_getElem?.mp hb
      exact (hs.beaconOk hk).2 (by simp [ht])
    obtain ⟨params, len, mem, bounded, -, -⟩ := hs
    exact ⟨params, len, mem, bounded, all⟩
  · rintro ⟨params, len, mem, bounded, all⟩
    exact ⟨params, len, mem, bounded, by simp [State.turnOk, ht, Turn.beacon?],
      fun k _ b hb => ⟨fun h => by simp [ht] at h, fun _ => all b (List.mem_of_getElem? hb)⟩⟩

/-- Replacing one transmitter between operations; what the host was answered and lent does not matter. -/
theorem State.Inv.set_at_host (hs : s.Inv) (ht : s.turn = .host) (k : Nat) (hc : c.settled s.params)
    (r : Option Reply) (l : List (Nat × Handle)) :
    ({ s with beacons := s.beacons.set k c, reply := r, loans := l } : State).Inv := by
  obtain ⟨params, len, mem, bounded, all⟩ := (State.inv_iff_of_host ht).mp hs
  refine (State.inv_iff_of_host (s := { s with beacons := s.beacons.set k c, reply := r, loans := l }) ht).mpr
    ⟨params, by simpa using len, mem, bounded, fun d hd => ?_⟩
  rcases List.mem_or_eq_of_mem_set hd with hd | rfl
  · exact all d hd
  · exact hc

/-- Bytes that fit a buffer from an offset up lie in the buffers. -/
theorem cellAddr_add_le {p : Params} {m : Handle} {pos n : Nat} (hm : m < p.nBuffers) (hn : pos + n ≤ p.msgCapacity) :
    cellAddr p m pos + n ≤ p.nBuffers * p.msgCapacity := by
  calc m * p.msgCapacity + pos + n = m * p.msgCapacity + (pos + n) := Nat.add_assoc _ _ _
    _ ≤ m * p.msgCapacity + p.msgCapacity := Nat.add_le_add_left hn _
    _ = (m + 1) * p.msgCapacity := (Nat.succ_mul _ _).symm
    _ ≤ p.nBuffers * p.msgCapacity := Nat.mul_le_mul_right _ hm

/-- Bytes written to a buffer keep the memory canonical and within the buffers. -/
theorem State.Inv.write_buffer (hs : s.Inv) {m : Handle} {pos : Nat} {vs : List Byte} (hm : m < s.params.nBuffers)
    (hn : pos + vs.length ≤ s.params.msgCapacity) (d : Option Diagnostic) (r : Option Reply) :
    ({ s with mem := s.mem.writeMany (cellAddr s.params m pos) vs, diag := d, reply := r } : State).Inv := by
  obtain ⟨params, len, mem, bounded, turn, ok⟩ := hs
  exact ⟨params, len, Memory.wf_writeMany mem _ _, Memory.bounded_writeMany bounded (cellAddr_add_le hm hn), turn, ok⟩

/-- The cycle begins with a beacon the array has. -/
theorem State.Inv.beginCycle (hs : s.Inv) (ht : s.turn = .host) : s.beginCycle.Inv := by
  obtain ⟨params, len, mem, bounded, all⟩ := (State.inv_iff_of_host ht).mp hs
  refine ⟨params, len, mem, bounded, ?_, fun k _ b hb => ⟨fun h => ?_, fun _ => all b (List.mem_of_getElem? hb)⟩⟩
  · by_cases h0 : s.beacons.length = 0
    · simp [State.turnOk, State.beginCycle_turn, Turn.beacon?, h0]
    · simpa [State.turnOk, State.beginCycle_turn, Turn.beacon?, h0] using Nat.pos_of_ne_zero h0
  · rw [State.beginCycle_turn] at h
    split at h <;> cases h

theorem State.Inv.assertReset (hs : s.Inv) (ht : s.turn = .host) : s.assertReset.Inv := by
  obtain ⟨params, len, mem, bounded, -⟩ := (State.inv_iff_of_host ht).mp hs
  refine (State.inv_iff_of_host (s := s.assertReset) ht).mpr ⟨params, by simpa using len, mem, bounded, ?_⟩
  simp only [State.assertReset_beacons, List.mem_map]
  rintro b ⟨-, -, rfl⟩
  exact Beacon.settled_reset

/-- Handing a transmitter the handle of a buffer (44 R301). -/
theorem State.Inv.install (hs : s.Inv) (ht : s.turn = .host) {m : Handle} {r : Option Reply}
    (hb : s.beacons[k]? = some b) (hm : m < s.params.nBuffers) (h : s.install k b m r = .next t) : t.Inv := by
  obtain ⟨-, rfl⟩ := State.install_next h
  exact hs.set_at_host ht k (Beacon.settled_setNext ((hs.beaconOk hb).2 (by simp [ht])) hm) _ _

/-- Every operation of the host keeps the invariant. -/
theorem State.Inv.perform (hs : s.Inv) (ht : s.turn = .host) {e : Event} (h : s.perform e = .next t) : t.Inv := by
  cases e <;> simp only [State.perform] at h
  case cycle =>
    obtain rfl := Host.Outcome.next.inj h
    exact hs.beginCycle ht
  case reset =>
    obtain rfl := Host.Outcome.next.inj h
    exact hs.assertReset ht
  case setNextMessage =>
    obtain ⟨b, hb, h⟩ := State.onBeacon_next h
    obtain ⟨m, -, hm, h⟩ := State.realHandle_next h
    exact hs.install ht hb hm h
  case handoff =>
    obtain ⟨b, hb, h⟩ := State.onBeacon_next h
    obtain ⟨m, -, hm, h⟩ := State.realHandle_next h
    split at h
    · exact hs.install ht hb hm h
    · obtain rfl := Host.Outcome.next.inj h
      exact hs
  case setEnabled i on =>
    obtain ⟨b, hb, h⟩ := State.onBeacon_next h
    obtain rfl := Host.Outcome.next.inj h
    have settled := (hs.beaconOk hb).2 (by simp [ht])
    cases on with
    | true => exact hs.set_at_host ht i (Beacon.settled_enable settled) _ _
    | false => exact hs.set_at_host ht i (Beacon.settled_disable settled) _ _
  case writeByte m pos v =>
    obtain ⟨hm, hpos, -, rfl⟩ := State.hostWrite_next h
    exact hs.write_buffer (vs := [v]) hm hpos _ _
  case encodeMessage m cap text e =>
    obtain ⟨hm, hcap, hle, -, rfl⟩ := State.hostEncode_next h
    have len := encodeMessage_length s.params.extraPunct e hcap text
    exact hs.write_buffer hm (by omega) _ _
  case isDone =>
    obtain ⟨b, -, h⟩ := State.onBeacon_next h
    obtain rfl := Host.Outcome.next.inj h
    exact hs
  case getLastEncodeError | encodeChar =>
    obtain rfl := Host.Outcome.next.inj h
    exact hs

theorem State.Inv.step_host (hs : s.Inv) (ht : s.turn = .host) (h : step s = .next t) : t.Inv := by
  rcases State.step_host_next ht h with ⟨-, rfl⟩ | ⟨e, es, -, h⟩
  · exact hs.beginCycle ht
  · have taken : (s.takeEvent es).Inv := hs
    exact taken.perform ht h

/-- Settles O56, by whose turn it is. -/
theorem invariantKept : Obligations.InvariantKept := by
  intro s t hs h
  rcases ht : s.turn with _ | k | k
  · exact hs.step_host ht h
  · exact hs.step_tick ht h
  · exact hs.step_interpret ht h

end Sys2Proof.Machine
end

section
/-! O28, O29. A step inside one beacon's tick: what it changes, and what it reads. -/

namespace Sys2Proof.Machine

variable {s s' t t' : State} {k : Nat}

/-- A step inside beacon `k`'s tick writes its place of the array and the turn. -/
theorem State.step_in_tick_next (ht : s.turn = .tick k ∨ s.turn = .interpret k) (h : step s = .next t) :
    ∃ c r, t = { s with beacons := s.beacons.set k c, turn := r } := by
  rcases ht with ht | ht
  · obtain ⟨b, -, rfl⟩ := State.step_tick_next ht h
    exact ⟨_, _, rfl⟩
  · obtain ⟨b, v, -, -, rfl⟩ := State.step_interpret_next ht h
    exact ⟨_, _, rfl⟩

/-- Settles O28: the step replaces the one place of the array, and the turn. -/
theorem tickChangesOnlyItsBeacon : Obligations.TickChangesOnlyItsBeacon := by
  intro s t k ht h
  obtain ⟨c, r, rfl⟩ := State.step_in_tick_next ht h
  exact ⟨fun j hj => List.getElem?_set_ne (Ne.symm hj), List.length_set, fun _ => rfl, rfl⟩

/-- What beacon `k` becomes in its tick phases, from itself and the parameters. -/
theorem State.step_tick_beacon (ht : s.turn = .tick k) (h : step s = .next t) :
    t.beacons[k]? = s.beacons[k]?.map fun b => (b.tickPhases s.params).1 := by
  obtain ⟨b, hb, rfl⟩ := State.step_tick_next ht h
  rw [hb, Option.map_some]
  exact List.getElem?_set_self (List.getElem?_eq_some_iff.mp hb).1

/-- What beacon `k` becomes in its interpret phase, from itself, the parameters and message memory. -/
theorem State.step_interpret_beacon (ht : s.turn = .interpret k) (h : step s = .next t) :
    ∃ b v, s.beacons[k]? = some b ∧ b.fetch s.params s.mem = .ok v ∧
      t.beacons[k]? = some (effect (decodeByte v) s.params b).1 := by
  obtain ⟨b, v, hb, hv, rfl⟩ := State.step_interpret_next ht h
  exact ⟨b, v, hb, State.fetchByte_eq hb ▸ hv, by simp [(List.getElem?_eq_some_iff.mp hb).1]⟩

/-- Settles O29: both phases compute the beacon from what the two states share. -/
theorem transmitterReadsOnlyItself : Obligations.TransmitterReadsOnlyItself := by
  intro s s' t t' k ht turn params mem beacon h h'
  rcases ht with ht | ht
  · rw [State.step_tick_beacon ht h, State.step_tick_beacon (turn.trans ht) h', beacon, params]
  · obtain ⟨b, v, hb, hv, hbt⟩ := State.step_interpret_beacon ht h
    obtain ⟨b', v', hb', hv', hbt'⟩ := State.step_interpret_beacon (turn.trans ht) h'
    obtain rfl : b = b' := Option.some.inj (hb.symm.trans (beacon.symm.trans hb'))
    rw [params, mem] at hv'
    obtain rfl : v = v' := Except.ok.inj (hv.symm.trans hv')
    rw [hbt, hbt', params]

end Sys2Proof.Machine
end

section
/-! O58, O59. The writers of the power mode and of the carrier. -/

namespace Sys2Proof.Machine

variable {p : Params} {b b' : Beacon}

/-- No countdown touches the power mode. -/
theorem Beacon.counterPhase_pwr {go : Bool} (h : b.counterPhase p = (b', go)) : b'.pwr = b.pwr := by
  rcases Beacon.counterPhase_cases h with ⟨-, -, rfl, -⟩ | ⟨-, -, rfl, -⟩ | ⟨-, -, -, rfl, -⟩ | ⟨-, -, -, rfl, -⟩ |
    ⟨-, -, -, -, rfl, -⟩ | ⟨-, -, -, -, -, rfl, -⟩ | ⟨-, -, -, -, -, rfl, -⟩ | ⟨-, -, -, rfl, -⟩ <;> rfl

theorem Beacon.tickPhases_pwr {go : Bool} (h : b.tickPhases p = (b', go)) : b'.pwr = b.pwr := by
  rcases Beacon.tickPhases_cases h with ⟨-, rfl, -⟩ | ⟨-, -, -, rfl, -⟩ | ⟨n, -, -, -, h⟩ | ⟨-, -, h⟩
  · rfl
  · rfl
  · exact Beacon.counterPhase_pwr (b := b.adopt n) h
  · exact Beacon.counterPhase_pwr h

/-- With `END_CLEARS_PWR` off (D12; log 14), SETPWR alone of the bytes writes the power mode. -/
theorem ByteEffect.pwr {v : Byte} {r : Beacon × ByteEnd} (h : ByteEffect v p b r) (hp : p.endClearsPwr = false)
    (hne : r.1.pwr ≠ b.pwr) : v ≤ 0x03#8 ∧ r.1.pwr = v.extractLsb' 0 2 := by
  cases h with
  | setPower hv => exact ⟨hv, rfl⟩
  | zeroHoldOn | zeroHoldOff | holdOn | holdOff | space | symbol => exact absurd rfl hne
  | ends => exact absurd (by simp [hp]) hne

/-- Settles O58, from all that a step can do to one transmitter. -/
theorem powerModeWriters : Obligations.PowerModeWriters := by
  intro s t k b b' hp h hb hb' hne
  rcases State.step_beacon h hb hb' with rfl | ⟨-, rfl⟩ | ⟨ht, v, hv, rfl⟩ |
    ⟨ht, ⟨m, es, -, rfl⟩ | ⟨es, -, rfl⟩ | ⟨es, he, rfl⟩ | ⟨es, he, rfl⟩⟩
  · exact absurd rfl hne
  · exact absurd (Beacon.tickPhases_pwr rfl) hne
  · exact .inl ⟨ht, v, hv, (byteEffect_decodeByte v s.params b).pwr hp hne⟩
  · exact absurd rfl hne
  · exact absurd rfl hne
  · exact .inr ⟨ht, rfl, es, .inl he⟩
  · exact .inr ⟨ht, rfl, es, .inr he⟩

/-- What the phases of a tick do to the carrier: an element starts at the end of a gap, or ends, or it is kept. -/
def Beacon.KeyMove (b b' : Beacon) : Prop :=
  b'.key = b.key ∨ (b.offPause = 1#2 ∧ b'.key = true ∧ b'.onPause ≠ 0#2) ∨
    (b.onPause = 1#2 ∧ b'.key = false ∧ b'.offPause ≠ 0#2)

theorem Beacon.counterPhase_keyMove {go : Bool} (h : b.counterPhase p = (b', go)) : b.KeyMove b' := by
  rcases Beacon.counterPhase_cases h with ⟨-, -, rfl, -⟩ | ⟨-, -, rfl, -⟩ | ⟨-, -, -, rfl, -⟩ | ⟨-, -, hz, rfl, -⟩ |
    ⟨-, -, -, -, rfl, -⟩ | ⟨-, -, -, hz, -, rfl, -⟩ | ⟨-, -, -, -, -, rfl, -⟩ | ⟨-, -, -, rfl, -⟩
  case inr.inr.inr.inl => -- an element ends
    have gap : (if b.bitPos = 0#3 then 3#2 else 1#2) ≠ 0#2 := by split <;> decide
    exact .inr (.inr ⟨by bv_omega, rfl, gap⟩)
  case inr.inr.inr.inr.inr.inl => -- the next element starts
    exact .inr (.inl ⟨by bv_omega, rfl, elementTicks_ne_zero _⟩)
  all_goals exact .inl rfl

theorem Beacon.tickPhases_keyMove {go : Bool} (h : b.tickPhases p = (b', go)) : b.KeyMove b' := by
  rcases Beacon.tickPhases_cases h with ⟨-, rfl, -⟩ | ⟨-, -, -, rfl, -⟩ | ⟨n, -, -, -, h⟩ | ⟨-, -, h⟩
  · exact .inl rfl
  · exact .inl rfl
  · exact Beacon.counterPhase_keyMove (b := b.adopt n) h
  · exact Beacon.counterPhase_keyMove h

/-- The bytes that turn the carrier on: the holds on and the Symbols. -/
theorem ByteEffect.key_on {v : Byte} {r : Beacon × ByteEnd} (h : ByteEffect v p b r) (off : b.key = false)
    (on : r.1.key = true) : (0x10#8 ≤ v ∧ v ≤ 0x1F#8) ∨ isSymbol v = true := by
  cases h with
  | setPower => exact absurd (off.symm.trans on) (by decide)
  | zeroHoldOn hv => exact .inl (by subst hv; decide)
  | holdOn d hd lo hi => exact .inl ⟨by bv_omega, hi⟩
  | symbol bits hn hv => exact .inr hv
  | zeroHoldOff | holdOff | space | ends => cases on

/-- The bytes that turn the carrier off: the holds off, the space and the bytes that end the message. -/
theorem ByteEffect.key_off {v : Byte} {r : Beacon × ByteEnd} (h : ByteEffect v p b r) (on : b.key = true)
    (off : r.1.key = false) : (0x20#8 ≤ v ∧ v ≤ 0x2F#8) ∨ v = 0x7E#8 ∨ endsMessage v = true := by
  cases h with
  | setPower => exact absurd (off.symm.trans on) (by decide)
  | zeroHoldOff hv => exact .inl (by subst hv; decide)
  | holdOff d hd lo hi => exact .inl ⟨by bv_omega, hi⟩
  | space hv => exact .inr (.inl hv)
  | ends hv => exact .inr (.inr hv)
  | zeroHoldOn | holdOn | symbol => cases off

/-- The cause of a carrier turned on, from all that a step can do to one transmitter. -/
theorem State.step_key_on {s t : State} {k : Nat} (h : step s = .next t) (hb : s.beacons[k]? = some b)
    (hb' : t.beacons[k]? = some b') (off : b.key = false) (on : b'.key = true) :
    (s.turn = .interpret k ∧ ∃ v, s.fetchByte k = .ok v ∧ ((0x10#8 ≤ v ∧ v ≤ 0x1F#8) ∨ isSymbol v = true)) ∨
    (s.turn = .tick k ∧ b.offPause = 1#2 ∧ b'.onPause ≠ 0#2) := by
  have kept : ¬ b'.key = b.key := by simp [off, on]
  rcases State.step_beacon h hb hb' with rfl | ⟨ht, rfl⟩ | ⟨ht, v, hv, rfl⟩ |
    ⟨-, ⟨m, es, -, rfl⟩ | ⟨es, -, rfl⟩ | ⟨es, -, rfl⟩ | ⟨es, -, rfl⟩⟩
  · exact absurd rfl kept
  · rcases Beacon.tickPhases_keyMove (p := s.params) (b := b) rfl with e | ⟨gap, -, run⟩ | ⟨-, off', -⟩
    · exact absurd e kept
    · exact .inr ⟨ht, gap, run⟩
    · exact absurd (off'.symm.trans on) (by decide)
  · exact .inl ⟨ht, v, hv, (byteEffect_decodeByte v s.params b).key_on off on⟩
  · exact absurd rfl kept
  · exact absurd rfl kept
  · cases on
  · cases on

/-- The cause of a carrier turned off, from all that a step can do to one transmitter. -/
theorem State.step_key_off {s t : State} {k : Nat} (h : step s = .next t) (hb : s.beacons[k]? = some b)
    (hb' : t.beacons[k]? = some b') (on : b.key = true) (off : b'.key = false) :
    (s.turn = .interpret k ∧ ∃ v, s.fetchByte k = .ok v ∧
      ((0x20#8 ≤ v ∧ v ≤ 0x2F#8) ∨ v = 0x7E#8 ∨ endsMessage v = true)) ∨
    (s.turn = .tick k ∧ b.onPause = 1#2 ∧ b'.offPause ≠ 0#2) ∨
    (s.turn = .host ∧ ∃ es, s.events = .setEnabled k false :: es ∨ s.events = .reset :: es) := by
  have kept : ¬ b'.key = b.key := by simp [off, on]
  rcases State.step_beacon h hb hb' with rfl | ⟨ht, rfl⟩ | ⟨ht, v, hv, rfl⟩ |
    ⟨ht, ⟨m, es, -, rfl⟩ | ⟨es, -, rfl⟩ | ⟨es, he, rfl⟩ | ⟨es, he, rfl⟩⟩
  · exact absurd rfl kept
  · rcases Beacon.tickPhases_keyMove (p := s.params) (b := b) rfl with e | ⟨-, on', -⟩ | ⟨last, -, gap⟩
    · exact absurd e kept
    · exact absurd (off.symm.trans on') (by decide)
    · exact .inr (.inl ⟨ht, last, gap⟩)
  · exact .inl ⟨ht, v, hv, (byteEffect_decodeByte v s.params b).key_off on off⟩
  · exact absurd rfl kept
  · exact absurd rfl kept
  · exact .inr (.inr ⟨ht, es, .inl he⟩)
  · exact .inr (.inr ⟨ht, es, .inr he⟩)

/-- Settles O59, from the causes of each direction. -/
theorem keyWriters : Obligations.KeyWriters := by
  intro s t k b b' h hb hb'
  exact ⟨State.step_key_on h hb hb', State.step_key_off h hb hb'⟩

end Sys2Proof.Machine
end

section
/-! SUPPORT. Where the bytes of message memory lie (20_memory.md R60, R66), and what a run of writes into one buffer
leaves unchanged. -/

namespace Sys2Proof.Machine

variable {p : Params} {m n : Handle} {pos pos' : Nat}

/-- Past the buffer the fetch gives END, whatever memory holds (20 R66). -/
theorem msgRead_past_end (mem : Memory) (h : p.msgCapacity ≤ pos) : msgRead p mem m pos = 0x7F#8 :=
  if_neg (Nat.not_lt.mpr h)

theorem Beacon.fetch_of_cur {b : Beacon} (mem : Memory) (hc : b.cur = some m) (hm : m < p.nBuffers) :
    b.fetch p mem = .ok (msgRead p mem m b.bytePos) := by
  simp [Beacon.fetch, hc, hm]

/-- The buffer that an address inside one belongs to. -/
theorem cellAddr_div (hpos : pos < p.msgCapacity) : cellAddr p m pos / p.msgCapacity = m := by
  have pos_cap : 0 < p.msgCapacity := Nat.zero_lt_of_lt hpos
  rw [cellAddr, Nat.add_comm, Nat.add_mul_div_right _ _ pos_cap, Nat.div_eq_of_lt hpos, Nat.zero_add]

/-- Bytes inside two buffers that lie at one address are of one buffer. -/
theorem cellAddr_handle_inj (hpos : pos < p.msgCapacity) (hpos' : pos' < p.msgCapacity)
    (h : cellAddr p m pos = cellAddr p n pos') : m = n := by
  rw [← cellAddr_div (m := m) hpos, h, cellAddr_div hpos']

/-- A run of writes changes no address outside it. -/
theorem Memory.read_writeMany_outside {mem : Memory} (w : mem.wf = true) {a a' : Nat} {vs : List Byte}
    (h : a ≤ a' → a + vs.length ≤ a') : (mem.writeMany a vs).read a' = mem.read a' := by
  rw [Memory.read_writeMany w]
  split
  · rename_i hle
    have past := h hle
    rw [List.getElem?_eq_none (by omega), Option.getD_none]
  · rfl

/-- A run of writes inside one buffer changes no byte of another. -/
theorem msgRead_writeMany_other {mem : Memory} (w : mem.wf = true) {vs : List Byte}
    (inside : pos + vs.length ≤ p.msgCapacity) (ne : n ≠ m) (pos' : Nat) :
    msgRead p (mem.writeMany (cellAddr p m pos) vs) n pos' = msgRead p mem n pos' := by
  unfold msgRead
  split
  · rename_i hpos'
    refine Memory.read_writeMany_outside w fun lo => Nat.not_lt.mp fun hi => ne ?_
    have here : cellAddr p n pos' = cellAddr p m (pos + (cellAddr p n pos' - cellAddr p m pos)) := by
      unfold cellAddr at *
      omega
    exact cellAddr_handle_inj hpos' (by omega) here
  · rfl

end Sys2Proof.Machine
end

section
/-! SUPPORT. The buffers that transmitters have (20_memory.md R72, log 7), and the operations that are refused for it. -/

namespace Sys2Proof.Machine

variable {s : State} {k i : Nat} {h : Handle} {b : Beacon}

/-- Buffer `h` is beacon `k`'s current or pending message, or on loan to it. -/
def State.holds (s : State) (k : Nat) (b : Beacon) (h : Handle) : Prop :=
  b.cur = some h ∨ b.next = some h ∨ (k, h) ∈ s.loans

/-- The model's test for a held buffer, for a beacon that is not done. -/
theorem State.lentTo_iff (hb : s.beacons[k]? = some b) (busy : b.isDone = false) :
    s.lentTo h k = true ↔ s.holds k b h := by
  simp [State.lentTo, State.holds, Beacon.refersTo, hb, busy, or_assoc]

/-- Settling the loans ends none of a beacon that is not done. -/
theorem State.holds_takeEvent (hb : s.beacons[k]? = some b) (busy : b.isDone = false) (held : s.holds k b h)
    (es : List Event) : (s.takeEvent es).holds k b h :=
  held.imp_right (Or.imp_right fun hl => State.mem_takeEvent_loans.mpr ⟨hl, b, hb, busy⟩)

theorem State.lentTo_takeEvent (hb : s.beacons[k]? = some b) (busy : b.isDone = false) (held : s.holds k b h)
    (es : List Event) : (s.takeEvent es).lentTo h k = true :=
  (State.lentTo_iff (s := s.takeEvent es) hb busy).mpr (State.holds_takeEvent hb busy held es)

/-- `lentTo` speaks of beacons the array has. -/
theorem State.lt_of_lentTo (held : s.lentTo h k = true) : k < s.beacons.length := by
  by_contra hk
  simp [State.lentTo, List.getElem?_eq_none (Nat.not_lt.mp hk)] at held

/-- A buffer lent to some beacon is lent. -/
theorem State.lent_of_lentTo (held : s.lentTo h k = true) : s.lent h = true :=
  List.any_eq_true.mpr ⟨k, List.mem_range.mpr (State.lt_of_lentTo held), held⟩

/-- A buffer lent to one beacon is held elsewhere for every other. -/
theorem State.heldElsewhere_of_lentTo (held : s.lentTo h k = true) (ne : i ≠ k) : s.heldElsewhere i h = true :=
  List.any_eq_true.mpr ⟨k, List.mem_range.mpr (State.lt_of_lentTo held), by simp [held, Ne.symm ne]⟩

theorem State.hostWrite_eq {pos : Nat} (hh : h < s.params.nBuffers) (hpos : pos < s.params.msgCapacity) (v : Byte) :
    s.hostWrite h pos v = if s.lent h then .refused .bufferLent
      else .next { s with mem := s.mem.write (cellAddr s.params h pos) v, reply := none } := by
  rw [State.hostWrite, if_neg (not_not.mpr hh), if_neg (not_not.mpr hpos)]

theorem State.hostEncode_lent {cap : Nat} (hh : h < s.params.nBuffers) (hc : 1 ≤ cap) (hle : cap ≤ s.params.msgCapacity)
    (text : List Byte) (e : Sensors) (hl : s.lent h = true) : s.hostEncode h cap text e = .refused .bufferLent := by
  rw [State.hostEncode, if_neg (not_not.mpr hh), if_neg (by omega), if_pos hl]

theorem State.install_shared (hs : s.heldElsewhere i h = true) (c : Beacon) (r : Option Reply) :
    s.install i c h r = .refused .handleShared := if_pos hs

end Sys2Proof.Machine
end

section
/-! SUPPORT. Which steps write message memory, said once: the host's two write operations, each a run of writes inside
a buffer that nobody has (20_memory.md R61, R72). -/

namespace Sys2Proof.Machine

variable {s t : State} {e : Event} {m : Handle}

/-- The buffer an operation of the host writes. -/
def Event.writesTo : Event → Option Handle
  | .writeByte h _ _ => some h
  | .encodeMessage h _ _ _ => some h
  | .cycle | .setNextMessage _ _ | .isDone _ | .setEnabled _ _ | .handoff _ _ | .getLastEncodeError | .encodeChar _
  | .reset => none

theorem Event.writesTo_eq_some : e.writesTo = some m ↔
    (∃ pos v, e = .writeByte m pos v) ∨ ∃ cap text x, e = .encodeMessage m cap text x := by
  cases e <;> simp [Event.writesTo]

/-- Memory in `t` is that of `s` with a run of bytes replaced inside buffer `m`. -/
def State.WritesInside (s t : State) (m : Handle) : Prop :=
  ∃ pos vs, pos + vs.length ≤ s.params.msgCapacity ∧ t.mem = s.mem.writeMany (cellAddr s.params m pos) vs

theorem State.install_keeps_mem {i : Nat} {b : Beacon} {r : Option Reply} (h : s.install i b m r = .next t) :
    t.params = s.params ∧ t.mem = s.mem := by
  obtain ⟨-, rfl⟩ := State.install_next h
  exact ⟨rfl, rfl⟩

/-- An operation that writes no buffer keeps the parameters and memory. -/
theorem State.perform_keeps_mem (hw : e.writesTo = none) (h : s.perform e = .next t) :
    t.params = s.params ∧ t.mem = s.mem := by
  cases e <;> simp only [State.perform] at h
  case writeByte | encodeMessage => cases hw
  case setNextMessage =>
    obtain ⟨b, -, h⟩ := State.onBeacon_next h
    obtain ⟨n, -, -, h⟩ := State.realHandle_next h
    exact State.install_keeps_mem h
  case handoff =>
    obtain ⟨b, -, h⟩ := State.onBeacon_next h
    obtain ⟨n, -, -, h⟩ := State.realHandle_next h
    split at h
    · exact State.install_keeps_mem h
    · obtain rfl := Host.Outcome.next.inj h
      exact ⟨rfl, rfl⟩
  case isDone | setEnabled =>
    obtain ⟨b, -, h⟩ := State.onBeacon_next h
    obtain rfl := Host.Outcome.next.inj h
    exact ⟨rfl, rfl⟩
  case cycle | getLastEncodeError | encodeChar | reset =>
    obtain rfl := Host.Outcome.next.inj h
    exact ⟨rfl, rfl⟩

/-- An operation that writes a buffer writes inside it, and nobody has it. -/
theorem State.perform_writes (hw : e.writesTo = some m) (h : s.perform e = .next t) :
    t.params = s.params ∧ s.lent m = false ∧ s.WritesInside t m := by
  rcases Event.writesTo_eq_some.mp hw with ⟨pos, v, rfl⟩ | ⟨cap, text, x, rfl⟩
  · obtain ⟨-, inside, free, rfl⟩ := State.hostWrite_next h
    exact ⟨rfl, free, pos, [v], inside, rfl⟩
  · obtain ⟨-, hc, hle, free, rfl⟩ := State.hostEncode_next h
    have len := encodeMessage_length s.params.extraPunct x hc text
    exact ⟨rfl, free, 0, _, by omega, rfl⟩

/-- All that a step can do to message memory; it never writes the parameters. -/
theorem State.step_mem (h : step s = .next t) : t.params = s.params ∧ (t.mem = s.mem ∨
    (s.turn = .host ∧ ∃ e es m, s.events = e :: es ∧ e.writesTo = some m ∧ (s.takeEvent es).lent m = false ∧
      s.WritesInside t m)) := by
  rcases ht : s.turn with _ | k | k
  · rcases State.step_host_next ht h with ⟨-, rfl⟩ | ⟨e, es, he, h⟩
    · exact ⟨rfl, .inl rfl⟩
    · cases hw : e.writesTo with
      | none =>
        obtain ⟨params, mem⟩ := State.perform_keeps_mem hw h
        exact ⟨params, .inl mem⟩
      | some m =>
        obtain ⟨params, free, inside⟩ := State.perform_writes hw h
        exact ⟨params, .inr ⟨rfl, e, es, m, he, hw, free, inside⟩⟩
  · obtain ⟨c, r, rfl⟩ := State.step_in_tick_next (.inl ht) h
    exact ⟨rfl, .inl rfl⟩
  · obtain ⟨c, r, rfl⟩ := State.step_in_tick_next (.inr ht) h
    exact ⟨rfl, .inl rfl⟩

end Sys2Proof.Machine
end

section
/-! O43, O44, O17, O41, O42. Message memory: its bytes, its writers and its owners. -/

namespace Sys2Proof.Machine

/-- Settles O43: a step that writes memory writes inside a buffer nobody has, so inside another than `h`. -/
theorem heldBufferStable : Obligations.HeldBufferStable := by
  intro s t k b h inv hstep hb busy held pos
  obtain ⟨params, mem | ⟨-, e, es, m, -, -, free, start, vs, inside, mem⟩⟩ := State.step_mem hstep
  · rw [params, mem]
  · have lent : (s.takeEvent es).lent h = true := State.lent_of_lentTo (State.lentTo_takeEvent hb busy held es)
    have ne : h ≠ m := by
      rintro rfl
      exact absurd (lent.symm.trans free) (by decide)
    obtain ⟨-, -, wf, -⟩ := inv
    rw [params, mem, msgRead_writeMany_other wf inside ne]

/-- Settles O44, from all that a step can do to memory. -/
theorem memoryChangedByHostOnly : Obligations.MemoryChangedByHostOnly := by
  intro s t h changed
  obtain ⟨-, mem | ⟨ht, e, es, m, he, hw, -, -⟩⟩ := State.step_mem h
  · exact absurd mem changed
  · refine ⟨ht, es, ?_⟩
    rcases Event.writesTo_eq_some.mp hw with ⟨pos, v, rfl⟩ | ⟨cap, text, x, rfl⟩
    · exact .inl ⟨m, pos, v, he⟩
    · exact .inr ⟨m, cap, text, x, he⟩

/-- Settles O17: the byte fetched is 0x7F, which is END. -/
theorem fetchPastEndRunsEnd : Obligations.FetchPastEndRunsEnd := by
  intro s k b h ht hb hc hh past
  have fetched : s.fetchByte k = .ok 0x7F#8 := by
    rw [State.fetchByte_eq hb, Beacon.fetch_of_cur _ hc hh, msgRead_past_end _ past]
  have decoded : decodeByte 0x7F#8 = .endMsg := by decide
  simp only [step, ht, fetched, decoded]

/-- Settles O41, with the rule for a read after a write. -/
theorem hostWriteEffect : Obligations.HostWriteEffect := by
  intro s h pos v es ht he hh hpos wf free
  refine ⟨s.mem.write (cellAddr s.params h pos) v, ?_, Memory.wf_write wf _ _, ?_, fun a ha => ?_⟩
  · rw [State.step_event ht he]
    exact (State.hostWrite_eq (s := s.takeEvent es) hh hpos v).trans (if_neg (by simp [free]))
  · rw [Memory.read_write wf, if_pos rfl]
  · rw [Memory.read_write wf, if_neg ha]

/-- Settles O42: once the loans are settled buffer `h` is still lent to beacon `k`, which each operation tests. -/
theorem heldBufferRefused : Obligations.HeldBufferRefused := by
  intro s k i pos cap h v text e es b c ht hb busy held hh
  have lentTo : (s.takeEvent es).lentTo h k = true := State.lentTo_takeEvent hb busy held es
  have lent : (s.takeEvent es).lent h = true := State.lent_of_lentTo lentTo
  refine ⟨fun he hpos => ?_, fun he hc hle => ?_, fun ne hi => ⟨fun he => ?_, fun he done => ?_⟩⟩ <;>
    rw [State.step_event ht he]
  · exact (State.hostWrite_eq (s := s.takeEvent es) hh hpos v).trans (if_pos lent)
  · exact State.hostEncode_lent (s := s.takeEvent es) hh hc hle text e lent
  all_goals
    have shared := State.heldElsewhere_of_lentTo lentTo ne
    rw [State.perform, State.onBeacon_eq (s := s.takeEvent es) hi, State.realHandle_eq (s := s.takeEvent es) hh]
  · exact State.install_shared shared c none
  · rw [if_pos done]
    exact State.install_shared shared c _

end Sys2Proof.Machine
end

section
/-! O1, O2, O3, O4. The decoder and the encoder are inverse to one another, and every byte belongs to one row of the
opcode table (30_encoding.md R91, R101, R104). -/

namespace Sys2Proof.Machine

theorem decode_cons (v : Byte) (rest : List Byte) : decode (v :: rest) = .ok (decodeByte v, rest) := rfl

theorem decodeOne_singleton (v : Byte) : decodeOne [v] = .ok (decodeByte v) := rfl

/-- The byte of a well-formed instruction decodes to that instruction. The split is by what the row leaves free: no
operand; an operand that fills its field; a duration code, whose block of codes (`Instr.wf`) tells the rows of one hold
from one another. -/
theorem decodeByte_encode {i : Instr} (wf : i.wf = true) : decodeByte (encode i) = i := by
  cases i with
  | holdOn10 | holdOff20 | wspace | endMsg | rsvsym0 | rsvsym1 => rfl
  | setpwr x | unk04 x | unk08 x | unk30 x | unk40 x | unk60 x | unk70 x | unk78 x | unk7C x
  | sym6 x | sym5 x | sym4 x | sym3 x | sym2 x | sym1 x =>
    clear wf
    revert x
    decide
  | holdOn11 d | holdOn12 d | holdOn14 d | holdOn18 d | holdOff21 d | holdOff22 d | holdOff24 d | holdOff28 d =>
    revert d
    decide

/-- A byte that is the encoding of a well-formed instruction decodes to it. -/
theorem decodeByte_eq_of_encode {i : Instr} {v : Byte} (wf : i.wf = true) (h : encode i = v) : decodeByte v = i :=
  h ▸ decodeByte_encode wf

/-- The decoder takes the operand of a hold from the row's own block of duration codes (30 R104). -/
theorem wf_decodeByte (v : Byte) : (decodeByte v).wf = true := by
  revert v
  decide

/-- The decoder loses no bit of a byte. -/
theorem encode_decodeByte (v : Byte) : encode (decodeByte v) = v := by
  revert v
  decide

/-- The rows of the opcode table are disjoint and cover every byte (30 R91, R104). -/
theorem rows_of_byte (v : Byte) :
    opcodeTable.filter (fun r => fits v r.value r.mask) = [(decodeByte v).row] := by
  revert v
  decide

/-- Settles O1: both readers decode the first byte, which is the instruction's own. -/
theorem decodeOfEncode : Obligations.DecodeOfEncode := by
  intro i rest wf
  rw [decode_cons, decodeOne_singleton, decodeByte_encode wf]
  exact ⟨rfl, rfl⟩

/-- Settles O2, from the three facts about the byte's instruction. -/
theorem everyByteIsOneInstruction : Obligations.EveryByteIsOneInstruction :=
  fun v => ⟨wf_decodeByte v, encode_decodeByte v, rows_of_byte v⟩

/-- Settles O3: each word is the encoding of the well-formed instruction it stands for. -/
theorem writtenWordsDecode : Obligations.WrittenWordsDecode := by
  refine ⟨?_, ?_, ?_, ?_, ?_, ?_, ?_, ?_, ?_, ?_⟩ <;> exact decodeByte_eq_of_encode rfl rfl

/-- Settles O4: at each of the 256 values the range map gives the mnemonic of the decoded row. -/
theorem mnemonicOfRange : Obligations.MnemonicOfRange := by
  intro v
  revert v
  decide

end Sys2Proof.Machine
end

section
/-! O5. A Symbol byte and its pattern (30_encoding.md R92, R93), compared bit by bit: ones above bit `n`, a zero at
bit `n`, and below it the `n` elements, the last one at bit 0. -/

namespace Sys2Proof.Machine

/-! ## The filler of a byte -/

/-- `k` leading ones are counted when the upper `k` bits are ones and the next bit is a zero. -/
theorem leadingOnes_eq_iff {n k : Nat} (v : Byte) (hk : k < n) :
    leadingOnes n v = k ↔ (∀ i < k, v.getMsbD i = true) ∧ v.getMsbD k = false := by
  induction n generalizing k v with
  | zero => omega
  | succ n ih =>
    cases k with
    | zero => cases h : v.msb <;> simp [leadingOnes, ← BitVec.msb_eq_getMsbD_zero, h]
    | succ k =>
      have rest := ih (v <<< 1) (Nat.lt_of_succ_lt_succ hk)
      rw [Nat.forall_lt_succ_left, ← BitVec.msb_eq_getMsbD_zero]
      cases h : v.msb <;> simp [leadingOnes, h, rest]

/-- The filler leaves `n` bits below it when bit `n` is the highest zero of the byte. -/
theorem fillerLength_eq_iff {n : Nat} (v : Byte) (hn : n ≤ 7) :
    fillerLength v = 7 - n ↔ (∀ j, n < j → j < 8 → v.getLsbD j = true) ∧ v.getLsbD n = false := by
  have flip : ∀ j < 8, v.getMsbD (7 - j) = v.getLsbD j := fun j hj => by
    rw [BitVec.getMsbD_eq_getLsbD, decide_eq_true (by omega), Bool.true_and, show 8 - 1 - (7 - j) = j by omega]
  rw [fillerLength, leadingOnes_eq_iff v (by omega), flip n (by omega)]
  refine and_congr_left' ⟨fun ones j lo hj => ?_, fun ones i hi => ?_⟩
  · rw [← flip j hj]
    exact ones _ (by omega)
  · rw [show i = 7 - (7 - i) by omega, flip _ (by omega)]
    exact ones _ (by omega) (by omega)

/-- The Symbol bytes are those whose filler leaves 1 to 6 elements (30 R92). -/
theorem isSymbol_iff_fillerLength (v : Byte) : isSymbol v = true ↔ 1 ≤ fillerLength v ∧ fillerLength v ≤ 6 := by
  revert v
  decide

/-! ## The bits of a packed pattern -/

theorem Element.bit_getLsbD (e : Element) (j : Nat) : e.bit.getLsbD j = (decide (j = 0) && decide (e = .dash)) := by
  cases e with
  | dot => simp [Element.bit]
  | dash => cases j <;> simp [Element.bit]

/-- Bit `j` is the element `j` places before the last one. -/
theorem patternBits_getLsbD {pat : List Element} (h : pat.length ≤ 8) (j : Nat) :
    (patternBits pat).getLsbD j = decide (pat.reverse[j]? = some .dash) := by
  induction pat with
  | nil => simp [patternBits]
  | cons e es ih =>
    rw [List.length_cons] at h
    rw [patternBits, BitVec.getLsbD_or, ih (by omega), BitVec.getLsbD_shiftLeft, Element.bit_getLsbD, List.reverse_cons]
    rcases Nat.lt_trichotomy j es.length with below | rfl | above
    · rw [List.getElem?_append_left (by simpa)]
      simp [below]
    · simp [show es.length < 8 by omega]
    · rw [List.getElem?_eq_none (by simp; omega), List.getElem?_eq_none (by simp; omega)]
      simp [show j - es.length ≠ 0 by omega]

theorem pack_getLsbD {pat : List Element} (h : pat.length ≤ 6) {j : Nat} (hj : j < 8) :
    (pack pat).getLsbD j = (decide (pat.length < j) || decide (pat.reverse[j]? = some .dash)) := by
  have ones : ∀ i < 8, (0xFF#8).getLsbD i = true := by decide
  rw [pack, BitVec.getLsbD_or, patternBits_getLsbD (by omega), BitVec.getLsbD_shiftLeft, ones _ (by omega),
    Bool.eq_iff_iff]
  simp [hj]

theorem fillerLength_pack {pat : List Element} (h : pat.length ≤ 6) : fillerLength (pack pat) = 7 - pat.length := by
  rw [fillerLength_eq_iff _ (by omega)]
  refine ⟨fun j lo hj => ?_, ?_⟩
  · simp [pack_getLsbD h hj, lo]
  · simp [pack_getLsbD h (show pat.length < 8 by omega)]

/-! ## The elements of an unpacked byte -/

theorem length_unpack (v : Byte) : (unpack v).length = 7 - fillerLength v := by simp [unpack]

theorem unpack_reverse_getElem? (v : Byte) {j : Nat} (hj : j < 7 - fillerLength v) :
    (unpack v).reverse[j]? = some (if v.getLsbD j then .dash else .dot) := by
  simp [unpack, ← List.map_reverse, hj]

/-! ## Both ways round -/

theorem unpack_pack {pat : List Element} (h : pat.length ≤ 6) : unpack (pack pat) = pat := by
  have len : (unpack (pack pat)).length = pat.length := by
    rw [length_unpack, fillerLength_pack h]
    omega
  refine List.reverse_injective (List.ext_getElem? fun j => ?_)
  rcases Nat.lt_or_ge j pat.length with below | above
  · obtain ⟨e, he⟩ : ∃ e, pat.reverse[j]? = some e := ⟨_, List.getElem?_eq_getElem (by simpa)⟩
    rw [unpack_reverse_getElem? _ (by rwa [← length_unpack, len]), pack_getLsbD h (by omega), he]
    cases e <;> simp [below.le]
  · rw [List.getElem?_eq_none (by simpa [len]), List.getElem?_eq_none (by simpa)]

theorem pack_unpack {v : Byte} (h : isSymbol v = true) : pack (unpack v) = v := by
  obtain ⟨lo, hi⟩ := (isSymbol_iff_fillerLength v).mp h
  obtain ⟨ones, zero⟩ := (fillerLength_eq_iff (n := 7 - fillerLength v) v (by omega)).mp (by omega)
  have len := length_unpack v
  refine BitVec.eq_of_getLsbD_eq fun j hj => ?_
  rw [pack_getLsbD (by omega) hj, len]
  rcases Nat.lt_trichotomy j (7 - fillerLength v) with below | rfl | above
  · rw [unpack_reverse_getElem? v below]
    cases v.getLsbD j <;> simp [below.le]
  · rw [zero, List.getElem?_eq_none (by simp [len])]
    simp
  · simp [above, ones j above hj]

/-- Settles O5: the filler of a packed pattern leaves the pattern's length, and that of a Symbol byte leaves 1 to 6. -/
theorem packInvertsUnpack : Obligations.PackInvertsUnpack := by
  refine ⟨fun pat lo hi => ⟨?_, unpack_pack hi⟩, fun v hv => ?_⟩
  · rw [isSymbol_iff_fillerLength, fillerLength_pack hi]
    omega
  · obtain ⟨lo, hi⟩ := (isSymbol_iff_fillerLength v).mp hv
    rw [length_unpack]
    exact ⟨by omega, by omega, pack_unpack hv⟩

end Sys2Proof.Machine
end

section
/-! SUPPORT. The Character Encoder, a rule per case (40_char_encoder.md R121 to R127): the Morse patterns and their
characters, the admissible extras (00_scope.md R8), and the byte that each case of `encodeChar` gives. -/

namespace Sys2Proof.Machine

variable {extra : List (Byte × Byte)} {p : Params} {c v : Byte} {pat : List Element}

/-! ## The patterns -/

theorem length_of_mem_digitPatterns : ∀ pat ∈ digitPatterns, pat.length = 5 := by decide

theorem length_of_mem_letterPatterns : ∀ pat ∈ letterPatterns, 1 ≤ pat.length ∧ pat.length ≤ 4 := by decide

/-- The five fixed punctuation marks, and the lengths of their patterns (40 R166 to R170). -/
theorem punctuationPattern_eq_some (h : punctuationPattern c = some pat) :
    c ∈ [0x3D#8, 0x3F#8, 0x2F#8, 0x2E#8, 0x2C#8] ∧ 5 ≤ pat.length ∧ pat.length ≤ 6 := by
  unfold punctuationPattern at h
  split_ifs at h with mark mark mark mark mark <;> cases h <;> simp [mark]

/-- A character with a pattern is a digit, a letter or a fixed punctuation mark (40 R121 to R123). -/
theorem morsePattern_cases (h : morsePattern c = some pat) :
    ((0x30#8 ≤ c ∧ c ≤ 0x39#8) ∧ pat ∈ digitPatterns) ∨ (isLetter c = true ∧ pat ∈ letterPatterns) ∨
      punctuationPattern c = some pat := by
  unfold morsePattern at h
  split at h
  · exact .inl ⟨‹_›, List.mem_of_getElem? h⟩
  · split at h
    · exact .inr (.inl ⟨‹_›, List.mem_of_getElem? h⟩)
    · exact .inr (.inr h)

theorem morsePattern_length (h : morsePattern c = some pat) : 1 ≤ pat.length ∧ pat.length ≤ 6 := by
  rcases morsePattern_cases h with ⟨-, mem⟩ | ⟨-, mem⟩ | mark
  · have := length_of_mem_digitPatterns pat mem
    omega
  · have := length_of_mem_letterPatterns pat mem
    omega
  · have := (punctuationPattern_eq_some mark).2
    omega

/-! ## The Symbol byte of a pattern -/

theorem isSymbol_pack (lo : 1 ≤ pat.length) (hi : pat.length ≤ 6) : isSymbol (pack pat) = true :=
  (packInvertsUnpack.1 pat lo hi).1

/-- The bytes with three leading ones, as those of up to 4 elements have, are the upper ones. -/
theorem le_of_fillerLength (h : 3 ≤ fillerLength v) : 0xE0#8 ≤ v := by
  revert v
  decide

/-- The Symbols of 1 to 4 elements (40 R122). -/
theorem pack_bounds_of_length_le_four (lo : 1 ≤ pat.length) (hi : pat.length ≤ 4) :
    0xE0#8 ≤ pack pat ∧ pack pat ≤ 0xFD#8 := by
  have filler := fillerLength_pack (pat := pat) (by omega)
  exact ⟨le_of_fillerLength (by omega), (of_decide_eq_true (isSymbol_pack lo (by omega))).2⟩

/-! ## The letters -/

theorem isLetter_not_digit (h : isLetter c = true) : ¬(0x30#8 ≤ c ∧ c ≤ 0x39#8) := by
  revert c
  decide

/-- A letter's place in the alphabet. -/
theorem isLetter_index (h : isLetter c = true) : (c &&& 0x1F#8).toNat - 1 < letterPatterns.length := by
  revert c
  decide

/-- The two cases of a letter differ in bit 5 (40 R122). -/
theorem isLetter_xor_case (h : isLetter c = true) : isLetter (c ^^^ 0x20#8) = true := by
  revert c
  decide

theorem xor_case_and_low (c : Byte) : (c ^^^ 0x20#8) &&& 0x1F#8 = c &&& 0x1F#8 := by
  revert c
  decide

theorem morsePattern_of_letter (h : isLetter c = true) :
    morsePattern c = some (letterPatterns[(c &&& 0x1F#8).toNat - 1]'(isLetter_index h)) := by
  rw [morsePattern, if_neg (isLetter_not_digit h), if_pos h, List.getElem?_eq_getElem]

/-! ## The extras -/

/-- The entries of an admissible map keep to 00 R8. -/
theorem Params.extra_ok (wf : p.wf = true) (h : p.extraPunct.lookup c = some v) :
    Params.extraKeyOk c = true ∧ Params.extraValueOk v = true := by
  simp only [Params.wf, Bool.and_eq_true, List.all_eq_true] at wf
  obtain ⟨l, l', eq, -⟩ := List.lookup_eq_some_iff.mp h
  exact wf.2 (c, v) (by simp [eq])

/-- An extra is none of the characters that have a pattern (00 R8). -/
theorem morsePattern_of_extraKeyOk (h : Params.extraKeyOk c = true) : morsePattern c = none := by
  rw [Option.eq_none_iff_forall_ne_some]
  intro pat hp
  simp only [Params.extraKeyOk, Bool.and_eq_true, Bool.not_eq_true', decide_eq_false_iff_not] at h
  obtain ⟨⟨⟨⟨-, digit⟩, upper⟩, lower⟩, mark⟩ := h
  rcases morsePattern_cases hp with ⟨hd, -⟩ | ⟨hl, -⟩ | hm
  · exact digit hd
  · simp [isLetter, upper, lower] at hl
  · have := (punctuationPattern_eq_some hm).1
    simp_all

/-! ## The encoder -/

theorem encodeChar_of_pattern (h : morsePattern c = some pat) : encodeChar extra c = pack pat := by
  simp only [encodeChar, h]

theorem encodeChar_of_extra (h : morsePattern c = none) (hx : extra.lookup c = some v) : encodeChar extra c = v := by
  simp only [encodeChar, h, hx]

theorem encodeChar_of_unlisted (h : morsePattern c = none) (hx : extra.lookup c = none) :
    encodeChar extra c = if c = 0x20#8 then 0x7E#8 else if c = 0x00#8 then 0x7F#8 else 0x00#8 := by
  simp only [encodeChar, h, hx]

/-- An admissible extra gives the byte its map gives (40 R124). -/
theorem encodeChar_of_admissible_extra (wf : p.wf = true) (hx : p.extraPunct.lookup c = some v) :
    encodeChar p.extraPunct c = v :=
  encodeChar_of_extra (morsePattern_of_extraKeyOk (Params.extra_ok wf hx).1) hx

/-- The bytes of characters that have patterns do not depend on the extras. -/
theorem map_encodeChar_of_patterns {α : Type} {char : α → Byte} {xs : List α} {vs : List Byte}
    (h : xs.map (fun x => (morsePattern (char x)).map pack) = vs.map some) :
    xs.map (fun x => encodeChar extra (char x)) = vs := by
  induction xs generalizing vs with
  | nil => simpa using h
  | cons x xs ih =>
    cases vs with
    | nil => cases h
    | cons v vs =>
      obtain ⟨head, tail⟩ := List.cons.inj h
      obtain ⟨pat, hp, rfl⟩ := Option.map_eq_some_iff.mp head
      rw [List.map_cons, encodeChar_of_pattern hp, ih tail]

/-- The space, `!` and the null character have no pattern and are no extras (00 R8). -/
theorem encodeChar_of_reserved (wf : p.wf = true) (h : c ∈ [0x20#8, 0x21#8, 0x00#8]) :
    encodeChar p.extraPunct c = if c = 0x20#8 then 0x7E#8 else if c = 0x00#8 then 0x7F#8 else 0x00#8 := by
  have out : ∀ c ∈ [0x20#8, 0x21#8, 0x00#8], morsePattern c = none ∧ Params.extraKeyOk c = false := by decide
  obtain ⟨noPattern, noKey⟩ := out c h
  refine encodeChar_of_unlisted noPattern (Option.eq_none_iff_forall_ne_some.mpr fun v hv => ?_)
  simp [(Params.extra_ok wf hv).1] at noKey

/-- The space and the null character have their own bytes, and every other character gives a Symbol or 0
(40 R121 to R127). -/
theorem encodeChar_cases (wf : p.wf = true) (c : Byte) :
    (c = 0x20#8 ∧ encodeChar p.extraPunct c = 0x7E#8) ∨ (c = 0x00#8 ∧ encodeChar p.extraPunct c = 0x7F#8) ∨
      (c ≠ 0x20#8 ∧ c ≠ 0x00#8 ∧
        (isSymbol (encodeChar p.extraPunct c) = true ∨ encodeChar p.extraPunct c = 0x00#8)) := by
  by_cases space : c = 0x20#8
  · exact .inl ⟨space, by rw [encodeChar_of_reserved wf (by simp [space]), if_pos space]⟩
  by_cases null : c = 0x00#8
  · exact .inr (.inl ⟨null, by rw [encodeChar_of_reserved wf (by simp [null]), if_neg space, if_pos null]⟩)
  refine .inr (.inr ⟨space, null, ?_⟩)
  cases hp : morsePattern c with
  | some pat =>
    obtain ⟨lo, hi⟩ := morsePattern_length hp
    rw [encodeChar_of_pattern hp]
    exact .inl (isSymbol_pack lo hi)
  | none =>
    cases hx : p.extraPunct.lookup c with
    | some v =>
      rw [encodeChar_of_extra hp hx]
      exact .inl (Params.extra_ok wf hx).2
    | none => exact .inr (by rw [encodeChar_of_unlisted hp hx, if_neg space, if_neg null])

/-- The encoder's diagnostic is empty exactly when there is none (41 R203). -/
theorem diagnosticText_eq_nil_iff (d : Option Diagnostic) : diagnosticText d = [] ↔ d = none := by
  cases d <;> simp [diagnosticText]

end Sys2Proof.Machine
end

section
/-! O48, O49, O50, O54. The Character Encoder (40_char_encoder.md), and the host's questions to the encoders. -/

namespace Sys2Proof.Machine

/-- Settles O48: both cases have the letter's place in the alphabet, and its pattern there has 1 to 4 elements. -/
theorem letterCaseIrrelevant : Obligations.LetterCaseIrrelevant := by
  intro extra c hc
  have here := morsePattern_of_letter hc
  have other := morsePattern_of_letter (isLetter_xor_case hc)
  simp only [xor_case_and_low] at other
  obtain ⟨lo, hi⟩ := length_of_mem_letterPatterns _ (List.getElem_mem (isLetter_index hc))
  rw [encodeChar_of_pattern here, encodeChar_of_pattern other]
  exact ⟨rfl, pack_bounds_of_length_le_four lo hi⟩

/-- Settles O49: the byte of a character is the packing of its pattern, which unpacks to it. -/
theorem characterDecodingLaw : Obligations.CharacterDecodingLaw := by
  refine ⟨fun extra => ⟨?digits, ?letters, ?marks, fun c pat hp => ?pattern⟩,
    fun p c pat wf lo hi hx => ?extra, ?hyphen⟩
  case digits => exact map_encodeChar_of_patterns (by decide)
  case letters =>
    intro base hbase
    refine map_encodeChar_of_patterns ?_
    revert base
    decide
  case marks => exact map_encodeChar_of_patterns (char := id) (by decide)
  case pattern =>
    obtain ⟨lo, hi⟩ := morsePattern_length hp
    rw [encodeChar_of_pattern hp]
    exact ⟨unpack_pack hi, isSymbol_pack lo hi⟩
  case extra =>
    rw [encodeChar_of_admissible_extra wf hx]
    exact ⟨unpack_pack hi, isSymbol_pack lo hi⟩
  case hyphen => decide

/-- Settles O50: a character's byte is one of three forms, and neither a Symbol nor 0 is 0x7E or 0x7F. -/
theorem characterOutputForms : Obligations.CharacterOutputForms := by
  intro p c wf
  have bang : encodeChar p.extraPunct 0x21#8 = 0x00#8 := encodeChar_of_reserved wf (by decide)
  have extras : ∀ v, p.extraPunct.lookup c = some v → encodeChar p.extraPunct c = v :=
    fun _ => encodeChar_of_admissible_extra wf
  rcases encodeChar_cases wf c with ⟨rfl, byte⟩ | ⟨rfl, byte⟩ | ⟨space, null, form⟩
  · exact ⟨by simp [byte], by simp [byte], .inr (.inl byte), bang, extras⟩
  · exact ⟨by simp [byte], by simp [byte], .inr (.inr (.inl byte)), bang, extras⟩
  · have neither : encodeChar p.extraPunct c ≠ 0x7E#8 ∧ encodeChar p.extraPunct c ≠ 0x7F#8 := by
      constructor <;> intro byte <;> rw [byte] at form <;> revert form <;> decide
    exact ⟨iff_of_false neither.1 space, iff_of_false neither.2 null, form.imp_right (.inr ∘ .inr), bang, extras⟩

/-- Settles O54: each question is performed as the oldest operation, and its answer is the whole change. -/
theorem encoderQuestionsAnswer : Obligations.EncoderQuestionsAnswer :=
  fun s _ _ ht => ⟨State.step_event ht, State.step_event ht, diagnosticText_eq_nil_iff s.diag⟩

end Sys2Proof.Machine
end

section
/-! SUPPORT. The Message Encoder, a rule per case (41_message_encoder.md): the item at the front of a source text
(R205 to R212), and one equation of the scan for each kind of item (R204, R208, R213, R214). -/

namespace Sys2Proof.Machine

variable {extra : List (Byte × Byte)} {e : Sensors} {cap : Nat} {overlong : Nat → List Byte} {c v : Byte}
  {t : List Byte} {pos n : Nat} {out : List Byte}

/-! ## The items of a source text -/

/-- A text without a null character is read whole (41 R204). -/
theorem cString_of_no_null (h : ∀ c ∈ t, c ≠ 0x00#8) : cString t = t := by
  simpa [cString, List.takeWhile_eq_self_iff] using h

theorem itemAt_dollar (extra : List (Byte × Byte)) (e : Sensors) (t : List Byte) :
    itemAt extra e 0x24#8 t = directive e t := if_pos rfl

/-- An encodable character other than `$` is an item of its own (41 R205). -/
theorem itemAt_plain (t : List Byte) (plain : c ≠ 0x24#8) (encodable : encodeChar extra c ≠ 0x00#8) :
    itemAt extra e c t = (.byte (encodeChar extra c), 1) := by
  simp only [itemAt, if_neg plain, if_neg encodable]

theorem digitValue_digit : ∀ d ≤ 9, digitValue (BitVec.ofNat 8 (0x30 + d)) = some d := by decide

theorem digitValue_le {d : Nat} (h : digitValue c = some d) : d ≤ 9 := by
  unfold digitValue at h
  split at h
  · rename_i digit
    obtain rfl := Option.some.inj h
    have upper : c.toNat ≤ 0x39 := digit.2
    omega
  · cases h

/-- `$P` and a digit (41 R206). -/
theorem directive_power (e : Sensors) {d : Nat} (hd : d ≤ 9) :
    directive e [0x50#8, BitVec.ofNat 8 (0x30 + d)] =
      (if d ≤ 3 then .byte (BitVec.ofNat 8 d) else .bad .powerMode, 3) := by
  simp only [directive, List.head?_cons, List.getElem?_cons_succ, List.getElem?_cons_zero, Option.bind_some,
    digitValue_digit d hd, if_true]
  split <;> rfl

theorem directive_holdOn (e : Sensors) (c : Byte) (t : List Byte) :
    directive e (0x2B#8 :: c :: t) = (holdItem 0x10#8 (some c), 3) := rfl

theorem directive_holdOff (e : Sensors) (c : Byte) (t : List Byte) :
    directive e (0x2D#8 :: c :: t) = (holdItem 0x20#8 (some c), 3) := rfl

/-- A hold's digit is its duration code, and 0 is none (41 R210, R211). -/
theorem holdItem_digit (base : Byte) {d : Nat} (hd : d ≤ 9) :
    holdItem base (some (BitVec.ofNat 8 (0x30 + d))) =
      if d = 0 then .bad .outOfRangeDigit else .byte (base ||| BitVec.ofNat 8 d) := by
  simp only [holdItem, Option.bind_some, digitValue_digit d hd]

/-- The byte that a hold directive asks for (41 R210, R211). -/
theorem holdItem_eq_byte {base : Byte} {o : Option Byte} (h : holdItem base o = .byte v) :
    ∃ d, 1 ≤ d ∧ d ≤ 9 ∧ v = base ||| BitVec.ofNat 8 d := by
  unfold holdItem at h
  split at h
  · rename_i d hd
    obtain ⟨c, -, hc⟩ := Option.bind_eq_some_iff.mp hd
    have upper := digitValue_le hc
    split at h
    · cases h
    · exact ⟨d, by omega, upper, (Item.byte.inj h).symm⟩
  · cases h

/-- The bytes that directives ask for: `$P`, `$+` and `$-` give one each, the others none (41 R206 to R212). -/
theorem directive_eq_byte (h : directive e t = (.byte v, n)) :
    (∃ d ≤ 3, v = BitVec.ofNat 8 d) ∨ ∃ base ∈ [0x10#8, 0x20#8], ∃ o, holdItem base o = .byte v := by
  unfold directive at h
  split at h
  · cases h
  · dsimp only at h
    split_ifs at h with isPower isAnalog isTemperature isOn isOff
    · split at h
      · split at h <;> cases h
        exact .inl ⟨_, ‹_›, rfl⟩
      · cases h
    · split at h
      · split at h <;> cases h
      · cases h
    · split at h
      · split at h <;> cases h
      · cases h
    · exact .inr ⟨0x10#8, by simp, _, (Prod.mk.inj h).1⟩
    · exact .inr ⟨0x20#8, by simp, _, (Prod.mk.inj h).1⟩
    · cases h

/-! ## The scan, item by item -/

@[simp] theorem scan_nil (pos skip : Nat) (out : List Byte) :
    scan extra e cap overlong [] pos skip out = ⟨out ++ [0x7F#8], none⟩ := by
  simp only [scan]

@[simp] theorem scan_skip (c : Byte) (t : List Byte) (pos skip : Nat) (out : List Byte) :
    scan extra e cap overlong (c :: t) pos (skip + 1) out = scan extra e cap overlong t (pos + 1) skip out := by
  simp only [scan]

theorem scan_bad {k : EncodeErrorKind} (item : itemAt extra e c t = (.bad k, n)) :
    scan extra e cap overlong (c :: t) pos 0 out = encodeFailure k pos out := by
  simp only [scan, item]

theorem scan_byte (item : itemAt extra e c t = (.byte v, n)) :
    scan extra e cap overlong (c :: t) pos 0 out =
      if out.length < cap - 1 then scan extra e cap overlong t (pos + 1) (n - 1) (out ++ [v])
      else encodeFailure .bufferTooSmall pos out := by
  simp only [scan, item]

theorem scan_insert {s : SensorText} (item : itemAt extra e c t = (.insert s, n)) :
    scan extra e cap overlong (c :: t) pos 0 out =
      if out.length + s.worstCase > cap - 1 then encodeFailure .bufferTooSmall pos out
      else
        let r := encodeText extra (insertedText overlong (cap - 1 - out.length) pos s)
        if r.2 then scan extra e cap overlong t (pos + 1) (n - 1) (out ++ r.1)
        else encodeFailure .unencodable pos (out ++ r.1) := by
  simp only [scan, item]

/-- A text that is passed over to its end emits nothing more. -/
theorem scan_skip_all (t : List Byte) (pos : Nat) (out : List Byte) :
    scan extra e cap overlong t pos t.length out = ⟨out ++ [0x7F#8], none⟩ := by
  induction t generalizing pos with
  | nil => exact scan_nil ..
  | cons c t ih => rw [List.length_cons, scan_skip, ih]

/-- The encodable characters other than `$` at the front of a text are emitted one by one while there is room
(41 R205, R213). -/
theorem scan_plain_append {us : List Byte} (t : List Byte) (pos : Nat)
    (plain : ∀ c ∈ us, c ≠ 0x24#8 ∧ encodeChar extra c ≠ 0x00#8) (fits : out.length + us.length ≤ cap - 1) :
    scan extra e cap overlong (us ++ t) pos 0 out =
      scan extra e cap overlong t (pos + us.length) 0 (out ++ us.map (encodeChar extra)) := by
  induction us generalizing pos out with
  | nil => simp
  | cons c us ih =>
    obtain ⟨⟨noDollar, encodable⟩, rest⟩ := List.forall_mem_cons.mp plain
    rw [List.length_cons] at fits
    rw [List.cons_append, scan_byte (itemAt_plain _ noDollar encodable), if_pos (by omega),
      ih (pos + 1) rest (by simp only [List.length_append, List.length_singleton]; omega)]
    simp [Nat.add_assoc, Nat.add_comm]

/-! ## Texts of one item -/

/-- A text that is one directive of one byte gives that byte and the terminator. -/
theorem encodeMessage_of_byte_item (text : ∀ a ∈ c :: t, a ≠ 0x00#8) (hc : 2 ≤ cap)
    (item : itemAt extra e c t = (.byte v, t.length + 1)) :
    encodeMessage extra e cap (c :: t) = ⟨[v, 0x7F#8], none⟩ := by
  rw [encodeMessage, cString_of_no_null text, scan_byte item, if_pos (by simp only [List.length_nil]; omega),
    Nat.add_sub_cancel, scan_skip_all]
  rfl

/-- A text that starts with a failing item fails there and leaves the END of a failure. -/
theorem encodeMessage_of_bad_item {k : EncodeErrorKind} (text : ∀ a ∈ c :: t, a ≠ 0x00#8)
    (item : itemAt extra e c t = (.bad k, n)) : encodeMessage extra e cap (c :: t) = ⟨[0x7F#8], some ⟨k, 0⟩⟩ := by
  rw [encodeMessage, cString_of_no_null text, scan_bad item]
  rfl

theorem digit_ne_null : ∀ d ≤ 9, BitVec.ofNat 8 (0x30 + d) ≠ 0x00#8 := by decide

/-- `$P` and a digit (41 R206). -/
theorem encodeMessage_power (extra : List (Byte × Byte)) (e : Sensors) {d : Nat} (hc : 2 ≤ cap) (hd : d ≤ 9) :
    encodeMessage extra e cap [0x24#8, 0x50#8, BitVec.ofNat 8 (0x30 + d)] =
      if d ≤ 3 then ⟨[BitVec.ofNat 8 d, 0x7F#8], none⟩ else ⟨[0x7F#8], some ⟨.powerMode, 0⟩⟩ := by
  have noNull : ∀ a ∈ [0x24#8, 0x50#8, BitVec.ofNat 8 (0x30 + d)], a ≠ 0x00#8 := by simp [digit_ne_null d hd]
  have item := (itemAt_dollar extra e _).trans (directive_power e hd)
  split <;> rename_i mode
  · rw [if_pos mode] at item
    exact encodeMessage_of_byte_item noNull hc item
  · rw [if_neg mode] at item
    exact encodeMessage_of_bad_item noNull item

/-- A hold directive, of either sign, and a digit (41 R210, R211). -/
theorem encodeMessage_hold {sign base : Byte} {d : Nat} (null : sign ≠ 0x00#8)
    (hold : ∀ c t, directive e (sign :: c :: t) = (holdItem base (some c), 3)) (hc : 2 ≤ cap) (hd : d ≤ 9) :
    encodeMessage extra e cap [0x24#8, sign, BitVec.ofNat 8 (0x30 + d)] =
      if d = 0 then ⟨[0x7F#8], some ⟨.outOfRangeDigit, 0⟩⟩ else ⟨[base ||| BitVec.ofNat 8 d, 0x7F#8], none⟩ := by
  have noNull : ∀ a ∈ [0x24#8, sign, BitVec.ofNat 8 (0x30 + d)], a ≠ 0x00#8 := by simp [null, digit_ne_null d hd]
  have item := (itemAt_dollar extra e _).trans (hold (BitVec.ofNat 8 (0x30 + d)) [])
  rw [holdItem_digit base hd] at item
  split <;> rename_i zero
  · rw [if_pos zero] at item
    exact encodeMessage_of_bad_item noNull item
  · rw [if_neg zero] at item
    exact encodeMessage_of_byte_item noNull hc item

end Sys2Proof.Machine
end

section
/-! SUPPORT. The bytes that the Message Encoder emits (41_message_encoder.md R215, R218): every item of a source text
gives bytes of R218's list, so a call leaves such bytes and the terminator, or a failure's END at position 0. -/

namespace Sys2Proof.Machine

variable {extra : List (Byte × Byte)} {e : Sensors} {p : Params} {c v : Byte} {t : List Byte} {n : Nat}

/-- A character other than null, when it is encodable, gives a Symbol or 0x7E. -/
theorem encoderByte_encodeChar (wf : p.wf = true) (null : c ≠ 0x00#8) (encodable : encodeChar p.extraPunct c ≠ 0x00#8) :
    encoderByte p.extraPunct (encodeChar p.extraPunct c) := by
  rcases encodeChar_cases wf c with ⟨-, space⟩ | ⟨isNull, -⟩ | ⟨-, -, symbol | zero⟩
  · exact .inr (.inl space)
  · exact absurd isNull null
  · exact .inl ⟨symbol, c, rfl⟩
  · exact absurd zero encodable

theorem encoderByte_powerMode : ∀ d ≤ 3, encoderByte extra (BitVec.ofNat 8 d) := by
  have low : ∀ d ≤ 3, BitVec.ofNat 8 d ≤ 0x03#8 := by decide
  exact fun d hd => .inr (.inr (.inl (low d hd)))

theorem encoderByte_hold {base : Byte} (hb : base ∈ [0x10#8, 0x20#8]) {o : Option Byte}
    (h : holdItem base o = .byte v) : encoderByte extra v := by
  have ranges : ∀ d ≤ 9, 1 ≤ d → (0x11#8 ≤ 0x10#8 ||| BitVec.ofNat 8 d ∧ 0x10#8 ||| BitVec.ofNat 8 d ≤ 0x19#8) ∧
      (0x21#8 ≤ 0x20#8 ||| BitVec.ofNat 8 d ∧ 0x20#8 ||| BitVec.ofNat 8 d ≤ 0x29#8) := by decide
  obtain ⟨d, lo, hi, rfl⟩ := holdItem_eq_byte h
  obtain ⟨on, off⟩ := ranges d hi lo
  rcases List.mem_pair.mp hb with rfl | rfl
  · exact .inr (.inr (.inr (.inl on)))
  · exact .inr (.inr (.inr (.inr off)))

/-- The byte that an item of the source text asks for is one of R218's list. -/
theorem encoderByte_of_itemAt (wf : p.wf = true) (null : c ≠ 0x00#8)
    (item : itemAt p.extraPunct e c t = (.byte v, n)) : encoderByte p.extraPunct v := by
  unfold itemAt at item
  split at item
  · rcases directive_eq_byte item with ⟨d, hd, rfl⟩ | ⟨base, hb, o, hold⟩
    · exact encoderByte_powerMode d hd
    · exact encoderByte_hold hb hold
  · dsimp only at item
    split at item <;> cases item
    exact encoderByte_encodeChar wf null ‹_›

/-- An inserted text that is encoded to its end gives bytes of R218's list. -/
theorem encoderByte_of_encodeText (wf : p.wf = true) (text : ∀ c ∈ t, c ≠ 0x00#8)
    (all : (encodeText p.extraPunct t).2 = true) : ∀ v ∈ (encodeText p.extraPunct t).1, encoderByte p.extraPunct v := by
  induction t with
  | nil => exact fun v hv => absurd hv List.not_mem_nil
  | cons c t ih =>
    obtain ⟨null, rest⟩ := List.forall_mem_cons.mp text
    unfold encodeText at all ⊢
    dsimp only at all ⊢
    split at all
    · cases all
    · rename_i encodable
      rw [if_neg encodable]
      exact List.forall_mem_cons.mpr ⟨encoderByte_encodeChar wf null encodable, ih rest all⟩

/-- What a call may leave (41 R215): without an error, bytes of R218's list and the terminator; with one, END at
position 0. -/
def EncodeResult.compiled (extra : List (Byte × Byte)) (r : EncodeResult) : Prop :=
  (r.error = none ∧ ∃ msg, r.bytes = msg ++ [0x7F#8] ∧ ∀ v ∈ msg, encoderByte extra v) ∨
    (r.error.isSome ∧ r.bytes.head? = some 0x7F#8)

theorem encodeFailure_compiled (k : EncodeErrorKind) (pos : Nat) (attempt : List Byte) :
    (encodeFailure k pos attempt).compiled extra := .inr ⟨rfl, rfl⟩

/-- The scan keeps to R218's list with every byte it emits. -/
theorem scan_compiled (wf : p.wf = true) {cap : Nat} {overlong : Nat → List Byte} (text : ∀ c ∈ t, c ≠ 0x00#8)
    (pos skip : Nat) {out : List Byte} (emitted : ∀ v ∈ out, encoderByte p.extraPunct v) :
    (scan p.extraPunct e cap overlong t pos skip out).compiled p.extraPunct := by
  induction t generalizing pos skip out with
  | nil => exact .inl ⟨by simp, out, by simp, emitted⟩
  | cons c t ih =>
    obtain ⟨null, rest⟩ := List.forall_mem_cons.mp text
    cases skip with
    | succ skip => exact scan_skip c t pos skip out ▸ ih rest _ _ emitted
    | zero =>
      rcases item : itemAt p.extraPunct e c t with ⟨v | s | k, n⟩
      case bad => exact scan_bad item ▸ encodeFailure_compiled ..
      case byte =>
        rw [scan_byte item]
        split
        · refine ih rest _ _ (List.forall_mem_append.mpr ⟨emitted, ?_⟩)
          exact List.forall_mem_singleton.mpr (encoderByte_of_itemAt wf null item)
        · exact encodeFailure_compiled ..
      case insert =>
        rw [scan_insert item]
        dsimp only
        split
        · exact encodeFailure_compiled ..
        · split
          · rename_i all
            refine ih rest _ _ (List.forall_mem_append.mpr ⟨emitted, ?_⟩)
            exact encoderByte_of_encodeText wf (insertedText_ne_null _ _ _ _) all
          · exact encodeFailure_compiled ..

/-- 41 R215, R218 of a whole call. -/
theorem encodeMessage_compiled (wf : p.wf = true) (e : Sensors) (cap : Nat) (text : List Byte) :
    (encodeMessage p.extraPunct e cap text).compiled p.extraPunct :=
  scan_compiled wf (cString_ne_null text) 0 0 (by simp)

/-! ## The bytes in the buffer -/

/-- What a run of writes from the start of a buffer leaves in it. -/
theorem msgRead_writeMany_same {m : Handle} {mem : Memory} (wf : mem.wf = true) {vs : List Byte} {j : Nat}
    (hj : vs[j]? = some v) (inside : vs.length ≤ p.msgCapacity) :
    msgRead p (mem.writeMany (cellAddr p m 0) vs) m j = v := by
  obtain ⟨lt, -⟩ := List.getElem?_eq_some_iff.mp hj
  have start : cellAddr p m j = cellAddr p m 0 + j := rfl
  rw [msgRead, if_pos (by omega), start, Memory.read_writeMany wf, if_pos (by omega), Nat.add_sub_cancel_left, hj,
    Option.getD_some]

theorem State.hostEncode_free {s : State} {h : Handle} {cap : Nat} (hh : h < s.params.nBuffers) (hc : 1 ≤ cap)
    (hle : cap ≤ s.params.msgCapacity) (text : List Byte) (e : Sensors) (free : s.lent h = false) :
    s.hostEncode h cap text e = .next { s with
      mem := s.mem.writeMany (cellAddr s.params h 0) (encodeMessage s.params.extraPunct e cap text).bytes
      diag := (encodeMessage s.params.extraPunct e cap text).error.map fun err => ⟨err, cap, text, e⟩
      reply := some (.encoded (encodeMessage s.params.extraPunct e cap text).error.isNone) } := by
  rw [State.hostEncode, if_neg (not_not.mpr hh), if_neg (by omega), if_neg (by simp [free])]

end Sys2Proof.Machine
end

section
/-! O51, O52, O53. The Message Encoder (41_message_encoder.md). -/

namespace Sys2Proof.Machine

/-- Settles O51: a text that fits is emitted whole; of one that does not, the first `cap - 1` characters are, and the
next one finds no room. -/
theorem plainTextEncodes : Obligations.PlainTextEncodes := by
  intro extra e cap text hc ok
  have noNull : ∀ c ∈ text, c ≠ 0x00#8 := fun c hmem => (ok c hmem).2.1
  have plain : ∀ c ∈ text, c ≠ 0x24#8 ∧ encodeChar extra c ≠ 0x00#8 :=
    fun c hmem => ⟨(ok c hmem).1, (ok c hmem).2.2⟩
  rw [encodeMessage, cString_of_no_null noNull]
  refine ⟨fun fits => ?_, fun long => ?_⟩
  · have whole := scan_plain_append (e := e) (cap := cap) (overlong := Config.overlongText cap text e) (out := []) [] 0
      plain (by simp only [List.length_nil]; omega)
    simpa using whole
  · obtain ⟨us, c, t, rfl, len⟩ : ∃ us c t, text = us ++ c :: t ∧ us.length = cap - 1 :=
      ⟨text.take (cap - 1), text[cap - 1], text.drop (cap - 1 + 1), by simp, by simp; omega⟩
    obtain ⟨front, back⟩ := List.forall_mem_append.mp plain
    obtain ⟨noDollar, encodable⟩ := back c List.mem_cons_self
    rw [scan_plain_append _ _ front (by simp [len]), scan_byte (itemAt_plain t noDollar encodable),
      if_neg (by simp [len])]
    simp [encodeFailure, len]

/-- Settles O52, with the bytes of the holds in R210's and R211's form. -/
theorem directivesEncode : Obligations.DirectivesEncode := by
  intro extra e cap d hc hd
  have holdBytes : ∀ d ≤ 9, 0x10#8 ||| BitVec.ofNat 8 d = BitVec.ofNat 8 (0x10 + d) ∧
      0x20#8 ||| BitVec.ofNat 8 d = BitVec.ofNat 8 (0x20 + d) := by decide
  obtain ⟨on, off⟩ := holdBytes d hd
  refine ⟨encodeMessage_power extra e hc hd, ?holdOn, ?holdOff⟩
  case holdOn => rw [encodeMessage_hold (by decide) (directive_holdOn e) hc hd, on]
  case holdOff => rw [encodeMessage_hold (by decide) (directive_holdOff e) hc hd, off]

/-- Settles O53: the state after the call is that of `State.hostEncode_free`, and reading the buffer gives back the
bytes the call wrote. -/
theorem encodeLeavesCompiledMessage : Obligations.EncodeLeavesCompiledMessage := by
  intro s h cap text e es wf memWf ht he hh hc hle free
  have len := encodeMessage_length s.params.extraPunct e hc text
  have inside : (encodeMessage s.params.extraPunct e cap text).bytes.length ≤ s.params.msgCapacity := len.trans hle
  refine ⟨_, (State.step_event ht he).trans (State.hostEncode_free (s := s.takeEvent es) hh hc hle text e free),
    ?reply, fun success => ?success, fun failure => ?failure, fun a outside => ?frame, rfl⟩
  case reply => simp
  case frame =>
    refine Memory.read_writeMany_outside memWf fun lo => ?_
    simp only [State.takeEvent_params] at lo ⊢
    omega
  case success =>
    simp only [State.takeEvent_params, State.takeEvent_mem, Option.map_eq_none_iff] at success ⊢
    rcases encodeMessage_compiled wf e cap text with ⟨-, msg, bytes, listed⟩ | ⟨error, -⟩
    · rw [bytes] at len inside ⊢
      rw [List.length_append, List.length_singleton] at len
      refine ⟨msg.length, by omega, msgRead_writeMany_same memWf (by simp) inside, fun j hj => ?_⟩
      rw [msgRead_writeMany_same memWf (List.getElem?_append_left hj ▸ List.getElem?_eq_getElem hj) inside]
      exact listed _ (List.getElem_mem hj)
    · simp [success] at error
  case failure =>
    simp only [State.takeEvent_params, State.takeEvent_mem, ne_eq, Option.map_eq_none_iff] at failure ⊢
    rcases encodeMessage_compiled wf e cap text with ⟨success, -⟩ | ⟨-, first⟩
    · exact absurd success failure
    · exact msgRead_writeMany_same memWf (List.head?_eq_getElem? ▸ first) inside

end Sys2Proof.Machine
end

section
/-! SUPPORT. The byte rule that the ranges of 42 R246 select, an equation per range, and its agreement with the decoder
and the effects of the instructions. -/

namespace Sys2Proof.Machine

variable {p : Params} {v : Byte}

/-- Bit 7 tells the Symbols from the Control Bytes (30 R91). -/
theorem getLsbD_seven_iff : v.getLsbD 7 = true ↔ 0x80#8 ≤ v := by
  revert v
  decide

/-! ## The ranges -/

theorem Beacon.byteRule_setPower (b : Beacon) (hv : v ≤ 0x03#8) :
    b.byteRule p v = (b.setPower (v.extractLsb' 0 2), .cont) := by
  rw [Beacon.byteRule, if_neg (by bv_omega), if_neg (mt getLsbD_seven_iff.mp (by bv_omega)), if_pos (by bv_omega)]

theorem Beacon.byteRule_holdOn (b : Beacon) (lo : 0x11#8 ≤ v) (hi : v ≤ 0x1F#8) :
    b.byteRule p v = (b.startHold true (16#8 * (v &&& 0x0F#8)), .ret) := by
  rw [Beacon.byteRule, if_neg (by bv_omega), if_neg (mt getLsbD_seven_iff.mp (by bv_omega)), if_neg (by bv_omega),
    if_neg (by bv_omega), if_pos ⟨lo, hi⟩]

theorem Beacon.byteRule_holdOff (b : Beacon) (lo : 0x21#8 ≤ v) (hi : v ≤ 0x2F#8) :
    b.byteRule p v = (b.startHold false (16#8 * (v &&& 0x0F#8)), .ret) := by
  rw [Beacon.byteRule, if_neg (by bv_omega), if_neg (mt getLsbD_seven_iff.mp (by bv_omega)), if_neg (by bv_omega),
    if_neg (by bv_omega), if_neg (by bv_omega), if_pos ⟨lo, hi⟩]

theorem Beacon.byteRule_symbol (b : Beacon) (hv : isSymbol v = true) : b.byteRule p v = (b.stripSymbol v, .ret) := by
  obtain ⟨lo, hi⟩ := of_decide_eq_true hv
  rw [Beacon.byteRule, if_neg (by bv_omega), if_pos (getLsbD_seven_iff.mpr lo)]

theorem Beacon.byteRule_ends (b : Beacon) (hv : endsMessage v = true) : b.byteRule p v = (b.endReaction p, .ret) := by
  by_cases reserved : 0xFE#8 ≤ v
  · rw [Beacon.byteRule, if_pos reserved]
  · simp only [endsMessage, Bool.or_eq_true, decide_eq_true_eq] at hv
    rw [Beacon.byteRule, if_neg reserved, if_neg (mt getLsbD_seven_iff.mp (by bv_omega)), if_neg (by bv_omega),
      if_neg (by bv_omega), if_neg (by bv_omega), if_neg (by bv_omega), if_neg (by bv_omega)]

/-! ## The operands -/

/-- The low half of a hold's byte is its duration code (30 R92, R96). -/
theorem sixteen_mul_low_half (hi d : BitVec 4) : 16#8 * ((hi ++ d) &&& 0x0F#8) = holdTicks d := by
  revert hi d
  decide

/-- The stripping loop shifts the filler out and counts the elements left (43 R281). -/
theorem stripFiller_eq (n : Nat) (s : Byte) (bp : BitVec 3) :
    stripFiller n s bp = (s <<< leadingOnes n s, bp - BitVec.ofNat 3 (leadingOnes n s)) := by
  induction n generalizing s bp with
  | zero => simp [stripFiller, leadingOnes]
  | succ n ih =>
    cases hs : s.msb with
    | false => simp [stripFiller, leadingOnes, hs]
    | true =>
      have count : bp - 1#3 - BitVec.ofNat 3 (leadingOnes n (s <<< 1)) =
          bp - BitVec.ofNat 3 (leadingOnes n (s <<< 1) + 1) := by
        rw [BitVec.ofNat_add, BitVec.sub_sub, BitVec.add_comm]
      simp only [stripFiller, leadingOnes, hs, if_true, ih, count, ← BitVec.shiftLeft_add, Nat.add_comm 1]

/-- The pseudocode of 43 R281 in its closed form, from the filler length `k`. -/
theorem Beacon.stripSymbol_eq (v : Byte) (b : Beacon) :
    b.stripSymbol v = b.startSymbol (v <<< (fillerLength v + 1)).msb (v <<< (fillerLength v + 2))
      (7#3 - BitVec.ofNat 3 (fillerLength v) - 1#3) := by
  simp only [Beacon.stripSymbol, stripFiller_eq, ← BitVec.shiftLeft_add]
  rfl

/-- A byte whose filler leaves `n` bits starts the Symbol of those bits. -/
theorem Beacon.stripSymbol_eq_keySymbol {n : Nat} {x : BitVec n} (b : Beacon) (lo : 1 ≤ n) (hi : n ≤ 6)
    (filler : fillerLength v = 7 - n) (bits : v.setWidth n = x) : b.stripSymbol v = b.keySymbol x := by
  subst bits
  have first : (v <<< (7 - n + 1)).msb = (v.setWidth n).msb := by
    simp [BitVec.msb_eq_getLsbD_last, show ¬ 7 < 7 - n + 1 by omega, show 7 - (7 - n + 1) = n - 1 by omega,
      show 0 < n by omega, BitVec.getLsbD_eq_getElem (show n - 1 < 8 by omega)]
  have rest : v <<< (7 - n + 2) = symbolRest (v.setWidth n) := by
    refine BitVec.eq_of_getLsbD_eq fun j hj => ?_
    simp [symbolRest, show 7 - n + 2 = 9 - n by omega, show j - (9 - n) < n by omega, show j - (9 - n) < 8 by omega]
  have left : 7#3 - BitVec.ofNat 3 (7 - n) - 1#3 = BitVec.ofNat 3 (n - 1) := by bv_omega
  rw [Beacon.stripSymbol_eq, filler, first, rest, left]
  rfl

/-! ## The two transcriptions -/

/-- The ranges give the byte of a well-formed instruction that instruction's effect, by its row of the opcode table. -/
theorem Beacon.byteRule_encode {i : Instr} (b : Beacon) (wf : i.wf = true) :
    b.byteRule p (encode i) = effect i p b := by
  cases i with
  | holdOn10 | holdOff20 | wspace | endMsg | rsvsym0 | rsvsym1 => rfl
  | setpwr m =>
    have operand : (encode (.setpwr m)).extractLsb' 0 2 = m := by
      revert m
      decide
    rw [Beacon.byteRule_setPower b (by revert m; decide), operand]
    rfl
  | holdOn11 d | holdOn12 d | holdOn14 d | holdOn18 d =>
    rw [Beacon.byteRule_holdOn b (by revert d; decide) (by revert d; decide)]
    exact congrArg (fun t => (b.startHold true t, ByteEnd.ret)) (sixteen_mul_low_half _ d)
  | holdOff21 d | holdOff22 d | holdOff24 d | holdOff28 d =>
    rw [Beacon.byteRule_holdOff b (by revert d; decide) (by revert d; decide)]
    exact congrArg (fun t => (b.startHold false t, ByteEnd.ret)) (sixteen_mul_low_half _ d)
  | unk04 x | unk08 x | unk30 x | unk40 x | unk60 x | unk70 x | unk78 x | unk7C x =>
    exact Beacon.byteRule_ends b (by revert x; decide)
  | sym6 x | sym5 x | sym4 x | sym3 x | sym2 x | sym1 x =>
    rw [Beacon.byteRule_symbol b (by revert x; decide), Beacon.stripSymbol_eq_keySymbol (x := x) b (by decide)
      (by decide) (by revert x; decide) (by revert x; decide)]
    rfl

/-- 42 R246: the ranges select for every byte the effect of its decoded instruction. -/
theorem Beacon.byteRule_eq_effect (b : Beacon) (v : Byte) : b.byteRule p v = effect (decodeByte v) p b := by
  conv_lhs => rw [← encode_decodeByte v]
  exact Beacon.byteRule_encode b (wf_decodeByte v)

end Sys2Proof.Machine
end

section
/-! O6 to O12, O15, O16. The Control Bytes in the interpret phase (42 R245 to R258). -/

namespace Sys2Proof.Machine

/-- Settles O6: `exec_eq` with SETPWR's effect. -/
theorem setPowerEffect : Obligations.SetPowerEffect :=
  fun _ _ _ m ht hb => exec_eq (.setpwr m) ht hb

/-- Settles O7: the four rows have one effect, and its ticks are those of the byte's low half. -/
theorem holdOnEffect : Obligations.HoldOnEffect := by
  intro s k b d i row ht hb
  have ticks : 16#8 * (encode i &&& 0x0F#8) = holdTicks d := by
    rcases row with rfl | rfl | rfl | rfl <;> exact sixteen_mul_low_half _ d
  rw [ticks, exec_eq i ht hb]
  rcases row with rfl | rfl | rfl | rfl <;> rfl

/-- Settles O8, as for HOLDON. -/
theorem holdOffEffect : Obligations.HoldOffEffect := by
  intro s k b d i row ht hb
  have ticks : 16#8 * (encode i &&& 0x0F#8) = holdTicks d := by
    rcases row with rfl | rfl | rfl | rfl <;> exact sixteen_mul_low_half _ d
  rw [ticks, exec_eq i ht hb]
  rcases row with rfl | rfl | rfl | rfl <;> rfl

/-- Settles O9: `exec_eq` with the two effects. -/
theorem zeroHoldEffect : Obligations.ZeroHoldEffect :=
  fun _ _ _ ht hb => ⟨exec_eq .holdOn10 ht hb, exec_eq .holdOff20 ht hb⟩

/-- Settles O10: `exec_eq` with the effect of a hold of 5 ticks. -/
theorem wordSpaceEffect : Obligations.WordSpaceEffect :=
  fun _ _ _ ht hb => exec_eq .wspace ht hb

/-- Settles O11: `exec_eq` with the end-of-message reaction. -/
theorem endMessageEffect : Obligations.EndMessageEffect :=
  fun _ _ _ ht hb => exec_eq .endMsg ht hb

/-- Settles O12: each of the eight rows runs the end-of-message reaction, which is END's. -/
theorem unknownByteEndsMessage : Obligations.UnknownByteEndsMessage := by
  intro s k b i row ht hb
  have same : exec i s = exec .endMsg s := by
    rcases row with ⟨x, rfl⟩ | ⟨x, rfl⟩ | ⟨x, rfl⟩ | ⟨x, rfl⟩ | ⟨x, rfl⟩ | ⟨x, rfl⟩ | ⟨x, rfl⟩ | ⟨x, rfl⟩ <;> rfl
  exact ⟨same, same.trans (endMessageEffect s k b ht hb)⟩

/-- Settles O15: the byte rule is the effect of the decoded instruction. -/
theorem byteRuleSelection : Obligations.ByteRuleSelection := by
  intro s k b v ht hb
  rw [exec_eq _ ht hb, Beacon.byteRule_eq_effect, State.turnOf_eq]
  simp only [decide_eq_true_eq]

/-- The step in an interpret phase runs the byte fetched (42 R245). -/
theorem State.step_interpret {s : State} {k : Nat} {v : Byte} (ht : s.turn = .interpret k)
    (hv : s.fetchByte k = .ok v) : step s = exec (decodeByte v) s := by
  simp only [step, ht, hv]

/-- Settles O16: the fetch answers the byte, and decoding a run of one byte is decoding that byte. -/
theorem stepRunsDecodedByte : Obligations.StepRunsDecodedByte := by
  intro s k b h i ht hb hc hh decoded
  have fetched : s.fetchByte k = .ok (msgRead s.params s.mem h b.bytePos) := by
    rw [State.fetchByte_eq hb, Beacon.fetch_of_cur _ hc hh]
  rw [State.step_interpret ht fetched]
  rw [decode_cons] at decoded
  obtain ⟨rfl, -⟩ := Prod.mk.inj (Except.ok.inj decoded)
  rfl

end Sys2Proof.Machine
end

section
/-! SUPPORT. The phases P0 to P2 of a tick by the state of the transmitter, an equation per case (42 R241 to R244), and
the whole tick by whether P3 follows. -/

namespace Sys2Proof.Machine

variable {p : Params} {b b' : Beacon}

theorem Beacon.tickPhases_disabled (p : Params) (he : b.enabled = false) : b.tickPhases p = (b, false) := by
  simp [Beacon.tickPhases, he]

theorem Beacon.tickPhases_idle (p : Params) (he : b.enabled = true) (hi : b.idle = true) (hn : b.next = none) :
    b.tickPhases p = (b, false) := by
  simp [Beacon.tickPhases, he, hi, hn]

theorem Beacon.tickPhases_adopt (p : Params) {h : Handle} (he : b.enabled = true) (hi : b.idle = true)
    (hn : b.next = some h) (still : b.counting = false) : b.tickPhases p = (b.adopt h, true) := by
  have adopted := Beacon.counterPhase_of_still (p := p) (b := b.adopt h) still
  simp [Beacon.tickPhases, he, hi, hn, adopted]

theorem Beacon.tickPhases_active (p : Params) (he : b.enabled = true) (hi : b.idle = false) :
    b.tickPhases p = b.counterPhase p := by
  simp [Beacon.tickPhases, he, hi]

/-- The last tick of a hold reaches the next byte (42 R244). -/
theorem Beacon.counterPhase_hold_ends (p : Params) (hc : b.cmdPause = 1#8) :
    b.counterPhase p =
      ({ b with cmdPause := 0#8, bytePos := b.bytePos + 1, bitPos := 7#3 }, !p.boundaryExtraTick) := by
  simp [Beacon.counterPhase, Beacon.countCmd, Beacon.atBoundary, Beacon.advance, hc]

/-- Any other tick of a hold counts it down (42 R244). -/
theorem Beacon.counterPhase_hold (p : Params) (hc : b.cmdPause ≠ 0#8) (more : b.cmdPause ≠ 1#8) :
    b.counterPhase p = ({ b with cmdPause := b.cmdPause - 1#8 }, false) := by
  have left : b.cmdPause - 1#8 ≠ 0#8 := by bv_omega
  simp [Beacon.counterPhase, Beacon.countCmd, hc, left]

/-- The step at a beacon's tick, from what its phases answer. -/
theorem State.step_tick {s : State} {k : Nat} {go : Bool} (ht : s.turn = .tick k) (hb : s.beacons[k]? = some b)
    (h : b.tickPhases s.params = (b', go)) :
    step s = .next { s with
      beacons := s.beacons.set k b', turn := if go then .interpret k else s.turnAfter k } := by
  simp only [step, ht, State.tickTurn_eq hb, h]

/-- A transmitter put back where it stands leaves the array as it was. -/
theorem set_getElem?_self {l : List Beacon} {k : Nat} (hb : l[k]? = some b) : l.set k b = l := by
  obtain ⟨hk, rfl⟩ := List.getElem?_eq_some_iff.mp hb
  exact List.set_getElem_self hk

theorem Beacon.tick_of_done (m : Memory) (h : b.tickPhases p = (b', false)) : b.tick p m = b' := by
  simp only [Beacon.tick, h]

theorem Beacon.tick_of_byte (m : Memory) (h : b.tickPhases p = (b', true)) :
    b.tick p m = b'.interpretLoop p m (p.msgCapacity + 1) := by
  simp only [Beacon.tick, h]

end Sys2Proof.Machine
end

section
/-! O18, O19, O20. The phases P0 to P2 as steps of the machine (42 R241 to R244). -/

namespace Sys2Proof.Machine

/-- Settles O18: phase P0 ends the tick. -/
theorem disabledTickChangesNothing : Obligations.DisabledTickChangesNothing := by
  intro s k b ht hb he
  have phases := Beacon.tickPhases_disabled s.params he
  refine ⟨?_, Beacon.tick_of_done _ phases⟩
  rw [State.step_tick ht hb phases, set_getElem?_self hb]
  rfl

/-- Settles O19, by whether a message is pending. -/
theorem idleTickAndAdoption : Obligations.IdleTickAndAdoption := by
  intro s k b ht hb he hi
  refine ⟨fun hn => ?_, fun h hn still => ?_⟩
  · rw [State.step_tick ht hb (Beacon.tickPhases_idle s.params he hi hn), set_getElem?_self hb]
    rfl
  · exact State.step_tick ht hb (Beacon.tickPhases_adopt s.params he hi hn still)

/-- Settles O20, by whether the tick is the hold's last. -/
theorem holdCountdown : Obligations.HoldCountdown := by
  intro s k b ht hb he hi hc
  have phases := Beacon.tickPhases_active s.params he hi
  split
  · rename_i last
    rw [State.step_tick ht hb (phases.trans (Beacon.counterPhase_hold_ends s.params last))]
    cases s.params.boundaryExtraTick <;> rfl
  · rename_i more
    exact State.step_tick ht hb (phases.trans (Beacon.counterPhase_hold s.params hc more))

end Sys2Proof.Machine
end

section
/-! O24. The loop of the interpret phase (42 R245), and the bytes it can take (42 R247). -/

namespace Sys2Proof.Machine

variable {p : Params} {m : Memory} {b b' : Beacon} {v : Byte}

/-- The ranges, as the constructors of a byte's effects. -/
theorem byteEffect_byteRule (v : Byte) (p : Params) (b : Beacon) : ByteEffect v p b (b.byteRule p v) :=
  Beacon.byteRule_eq_effect (p := p) b v ▸ byteEffect_decodeByte v p b

/-- A rule that continues moves the program counter to the next byte; the bytes are SETPWR and the zero-duration
holds. -/
theorem ByteEffect.of_cont (h : ByteEffect v p b (b', .cont)) :
    (v ≤ 0x03#8 ∨ v = 0x10#8 ∨ v = 0x20#8) ∧ b'.cur = b.cur ∧ b'.bytePos = b.bytePos + 1 := by
  cases h with
  | setPower hv => exact ⟨.inl hv, rfl, rfl⟩
  | zeroHoldOn hv => exact ⟨.inr (.inl hv), rfl, rfl⟩
  | zeroHoldOff hv => exact ⟨.inr (.inr hv), rfl, rfl⟩

/-- A byte whose rule continues lies inside the buffer, since past it the fetch gives END (20 R66). -/
theorem Beacon.fetch_inside_of_cont (hf : b.fetch p m = .ok v) (hr : b.byteRule p v = (b', .cont)) :
    b.bytePos < p.msgCapacity := by
  obtain ⟨range, -⟩ := (hr ▸ byteEffect_byteRule v p b).of_cont
  exact Beacon.fetch_inside hf (by rintro rfl; revert range; decide)

/-! ## The loop, by the byte fetched -/

theorem Beacon.interpretLoop_fault {f : Fault} (hf : b.fetch p m = .error f) (n : Nat) :
    b.interpretLoop p m (n + 1) = b := by
  simp only [Beacon.interpretLoop, hf]

theorem Beacon.interpretLoop_ret (hf : b.fetch p m = .ok v) (hr : b.byteRule p v = (b', .ret)) (n : Nat) :
    b.interpretLoop p m (n + 1) = b' := by
  simp only [Beacon.interpretLoop, hf, hr]

theorem Beacon.interpretLoop_cont (hf : b.fetch p m = .ok v) (hr : b.byteRule p v = (b', .cont)) (n : Nat) :
    b.interpretLoop p m (n + 1) = b'.interpretLoop p m n := by
  simp only [Beacon.interpretLoop, hf, hr]

/-- From a byte position within the buffer the loop ends before any fuel that reaches past the buffer. -/
theorem Beacon.interpretLoop_add_fuel {n : Nat} (pos : b.bytePos ≤ p.msgCapacity) (hn : p.msgCapacity < b.bytePos + n)
    (extra : Nat) : b.interpretLoop p m (n + extra) = b.interpretLoop p m n := by
  induction n generalizing b with
  | zero => omega
  | succ n ih =>
    rw [Nat.add_right_comm]
    cases hf : b.fetch p m with
    | error f => rw [Beacon.interpretLoop_fault hf, Beacon.interpretLoop_fault hf]
    | ok v =>
      rcases hr : b.byteRule p v with ⟨c, _ | _⟩
      · rw [Beacon.interpretLoop_ret hf hr, Beacon.interpretLoop_ret hf hr]
      · have inside := Beacon.fetch_inside_of_cont hf hr
        obtain ⟨-, -, moved⟩ := (hr ▸ byteEffect_byteRule v p b).of_cont
        rw [Beacon.interpretLoop_cont hf hr, Beacon.interpretLoop_cont hf hr]
        exact ih (by omega) (by omega)

/-- Settles O24: `MSG_CAPACITY + 1` bytes reach past the buffer from every position in it. -/
theorem tickInterpretsBoundedBytes : Obligations.TickInterpretsBoundedBytes :=
  fun _ _ _ _ extra _ _ pos => Beacon.interpretLoop_add_fuel pos (by omega) extra

end Sys2Proof.Machine
end

section
/-! O26. The steps of a cycle, put together: the interpret phase, the tick of one transmitter, the whole array. -/

namespace Sys2Proof.Machine

variable {s t u : State} {k : Nat} {b : Beacon}

/-- A run whose first step answers with a next state goes on from there. -/
theorem run_succ (h : step s = .next t) (j : Nat) : Host.Core.run core (j + 1) s = Host.Core.run core j t := by
  have h' : core.step s = .next t := h
  simp only [Host.Core.run, h']

theorem run_one (h : step s = .next t) : Host.Core.run core 1 s = .next t := run_succ h 0

/-- A run of two parts. -/
theorem run_append {i j : Nat} (first : Host.Core.run core i s = .next t) (second : Host.Core.run core j t = .next u) :
    Host.Core.run core (i + j) s = .next u := by
  induction i generalizing s with
  | zero =>
    obtain rfl := Host.Outcome.next.inj first
    rwa [Nat.zero_add]
  | succ i ih =>
    cases hs : step s with
    | next w =>
      rw [run_succ hs] at first
      rw [Nat.add_right_comm, run_succ hs]
      exact ih first
    | fault r | refused r =>
      have stop : core.step s = _ := hs
      simp [Host.Core.run, stop] at first

/-- The state in which beacon `k`'s tick is over and has left it as `c`. -/
def State.afterTick (s : State) (k : Nat) (c : Beacon) : State :=
  { s with beacons := s.beacons.set k c, turn := s.turnAfter k }

/-- The state in which beacon `k` has become `c` and its next byte is due. -/
def State.atNextByte (s : State) (k : Nat) (c : Beacon) : State :=
  { s with beacons := s.beacons.set k c, turn := .interpret k }

theorem State.afterTick_atNextByte (s : State) (k : Nat) (c d : Beacon) :
    (s.atNextByte k c).afterTick k d = s.afterTick k d := by
  simp [State.afterTick, State.atNextByte, State.turnAfter]

theorem State.atNextByte_getElem? (hb : s.beacons[k]? = some b) (c : Beacon) :
    (s.atNextByte k c).beacons[k]? = some c :=
  List.getElem?_set_self (List.getElem?_eq_some_iff.mp hb).1

/-- The step in an interpret phase, by the byte's rule. -/
theorem State.step_byte {v : Byte} {c : Beacon} {fin : ByteEnd} (ht : s.turn = .interpret k)
    (hb : s.beacons[k]? = some b) (hv : b.fetch s.params s.mem = .ok v) (hr : b.byteRule s.params v = (c, fin)) :
    step s = .next { s with beacons := s.beacons.set k c, turn := s.turnOf k fin } := by
  rw [State.step_interpret ht ((State.fetchByte_eq hb).trans hv), exec_eq _ ht hb, ← Beacon.byteRule_eq_effect, hr]

/-- The steps of the interpret phase of a transmitter with a current message add up to the loop, one step a byte. -/
theorem State.run_interpret {h : Handle} {n : Nat} (ht : s.turn = .interpret k) (hb : s.beacons[k]? = some b)
    (hc : b.cur = some h) (hh : h < s.params.nBuffers) (pos : b.bytePos ≤ s.params.msgCapacity)
    (hn : s.params.msgCapacity < b.bytePos + n) :
    ∃ j ≤ n, Host.Core.run core j s = .next (s.afterTick k (b.interpretLoop s.params s.mem n)) := by
  induction n generalizing s b with
  | zero => omega
  | succ n ih =>
    have hf := Beacon.fetch_of_cur s.mem hc hh
    rcases hr : b.byteRule s.params (msgRead s.params s.mem h b.bytePos) with ⟨c, _ | _⟩
    · rw [Beacon.interpretLoop_ret hf hr]
      exact ⟨1, by omega, run_one (State.step_byte ht hb hf hr)⟩
    · have inside := Beacon.fetch_inside_of_cont hf hr
      obtain ⟨-, cur, moved⟩ := (hr ▸ byteEffect_byteRule _ s.params b).of_cont
      obtain ⟨j, hj, run⟩ := ih (s := s.atNextByte k c) rfl (State.atNextByte_getElem? hb c) (cur.trans hc) hh
        (moved.trans_le inside) (by change s.params.msgCapacity < _; omega)
      rw [State.afterTick_atNextByte] at run
      rw [Beacon.interpretLoop_cont hf hr]
      exact ⟨j + 1, by omega, (run_succ (State.step_byte ht hb hf hr) j).trans run⟩

/-- The steps of one transmitter's tick add up to the whole tick (42 R240). -/
theorem State.run_tick (ht : s.turn = .tick k) (hb : s.beacons[k]? = some b) (settled : b.settled s.params) :
    ∃ j ≤ s.params.msgCapacity + 2, Host.Core.run core j s = .next (s.afterTick k (b.tick s.params s.mem)) := by
  rcases phases : b.tickPhases s.params with ⟨c, _ | _⟩
  · rw [Beacon.tick_of_done _ phases]
    exact ⟨1, by omega, run_one (State.step_tick ht hb phases)⟩
  · have atByte : c.atByte s.params := Beacon.tickPhases_ok settled phases
    obtain ⟨⟨-, -, cur, curOk, -⟩, -, -, pos⟩ := Beacon.atByte_iff.mp atByte
    obtain ⟨h, hc⟩ := Option.ne_none_iff_exists'.mp cur
    obtain ⟨j, hj, run⟩ := State.run_interpret (s := s.atNextByte k c) (n := s.params.msgCapacity + 1) rfl
      (State.atNextByte_getElem? hb c) hc (curOk h hc) pos (by change s.params.msgCapacity < _; omega)
    rw [State.afterTick_atNextByte] at run
    rw [Beacon.tick_of_byte _ phases]
    exact ⟨j + 1, by omega, (run_succ (State.step_tick ht hb phases) j).trans run⟩

/-- A state inside a cycle: the transmitters `ticked` have had their tick, and the first of `rest` is next; with none
left it is the host's turn. -/
def State.inCycle (s : State) (ticked : List Beacon) : List Beacon → State
  | [] => { s with beacons := ticked, turn := .host }
  | b :: rest => { s with beacons := ticked ++ b :: rest, turn := .tick ticked.length }

theorem State.beginCycle_eq_inCycle (s : State) : s.beginCycle = s.inCycle [] s.beacons := by
  cases hl : s.beacons <;> simp [State.beginCycle, State.inCycle, hl]

theorem State.cycle_eq_inCycle (ht : s.turn = .host) :
    s.cycle = s.inCycle (s.beacons.map (Beacon.tick s.params s.mem)) [] := by
  simp [State.cycle, State.inCycle, ht]

/-- After the tick of the next transmitter the one after it is next. -/
theorem State.afterTick_inCycle (s : State) (ticked rest : List Beacon) (b c : Beacon) :
    (s.inCycle ticked (b :: rest)).afterTick ticked.length c = s.inCycle (ticked ++ [c]) rest := by
  cases rest <;> simp [State.afterTick, State.inCycle, State.turnAfter]

/-- From inside a cycle, the rest of the transmitters are ticked in turn (45 R321). -/
theorem State.run_inCycle (s : State) {rest : List Beacon} (ticked : List Beacon)
    (settled : ∀ b ∈ rest, b.settled s.params) :
    ∃ n ≤ rest.length * (s.params.msgCapacity + 2), Host.Core.run core n (s.inCycle ticked rest) =
      .next (s.inCycle (ticked ++ rest.map (Beacon.tick s.params s.mem)) []) := by
  induction rest generalizing ticked with
  | nil => exact ⟨0, by omega, by simp [Host.Core.run]⟩
  | cons b rest ih =>
    obtain ⟨now, later⟩ := List.forall_mem_cons.mp settled
    obtain ⟨i, hi, first⟩ := State.run_tick (s := s.inCycle ticked (b :: rest)) rfl
      (by simp [State.inCycle]) now
    obtain ⟨j, hj, others⟩ := ih (ticked ++ [b.tick s.params s.mem]) later
    change i ≤ s.params.msgCapacity + 2 at hi
    rw [State.afterTick_inCycle] at first
    refine ⟨i + j, ?_, ?_⟩
    · rw [List.length_cons, Nat.succ_mul]
      omega
    · rw [List.append_assoc] at others
      exact run_append first others

/-- Settles O26: the cycle is the run from none ticked to all ticked. -/
theorem cycleRefinesTick : Obligations.CycleRefinesTick := by
  intro s inv ht
  obtain ⟨-, -, -, -, settled⟩ := (State.inv_iff_of_host ht).mp inv
  rw [State.beginCycle_eq_inCycle, State.cycle_eq_inCycle ht]
  exact s.run_inCycle [] settled

end Sys2Proof.Machine
end

section
/-! O31. How long a hold lasts (42 R261). -/

namespace Sys2Proof.Machine

variable {p : Params} {m : Memory} {b : Beacon} {v : Byte}

theorem Beacon.afterTicks_add (p : Params) (m : Memory) (i j : Nat) (b : Beacon) :
    Beacon.afterTicks p m (i + j) b = Beacon.afterTicks p m j (Beacon.afterTicks p m i b) := by
  induction i generalizing b with
  | zero => rw [Nat.zero_add]; rfl
  | succ i ih => rw [Nat.add_right_comm]; exact ih (b.tick p m)

/-- A tick of a hold with more than one tick left. -/
theorem Beacon.tick_startHold (m : Memory) (he : b.enabled = true) (hi : b.idle = false) (on : Bool) {c : BitVec 8}
    (hc : c ≠ 0#8) (more : c ≠ 1#8) : (b.startHold on c).tick p m = b.startHold on (c - 1#8) :=
  Beacon.tick_of_done m ((Beacon.tickPhases_active (b := b.startHold on c) p he hi).trans
    (Beacon.counterPhase_hold p hc more))

/-- The last tick of a hold interprets the next byte (decision D7). -/
theorem Beacon.tick_startHold_one (m : Memory) (hp : p.boundaryExtraTick = false) (hb : b.atByte p) (on : Bool) :
    (b.startHold on 1#8).tick p m =
      Beacon.interpretLoop p m (p.msgCapacity + 1) { b with key := on, bytePos := b.bytePos + 1 } := by
  obtain ⟨⟨he, hi, -⟩, bit, still, -⟩ := Beacon.atByte_iff.mp hb
  obtain ⟨hc, -⟩ := Beacon.counting_eq_false.mp still
  have phases := (Beacon.tickPhases_active (b := b.startHold on 1#8) p he hi).trans
    (Beacon.counterPhase_hold_ends p rfl)
  rw [hp] at phases
  rw [Beacon.tick_of_byte m phases, ← hc, ← bit]
  rfl

/-- After `u` ticks of a hold, with `left` to go. -/
theorem Beacon.afterTicks_startHold (m : Memory) (he : b.enabled = true) (hi : b.idle = false) (on : Bool)
    {u left : Nat} (hl : 1 ≤ left) (hle : u + left < 256) :
    Beacon.afterTicks p m u (b.startHold on (BitVec.ofNat 8 (u + left))) = b.startHold on (BitVec.ofNat 8 left) := by
  induction u with
  | zero => rw [Nat.zero_add]; rfl
  | succ u ih =>
    have tick := Beacon.tick_startHold (p := p) m he hi on (c := BitVec.ofNat 8 (u + 1 + left)) (by bv_omega)
      (by bv_omega)
    rw [show BitVec.ofNat 8 (u + 1 + left) - 1#8 = BitVec.ofNat 8 (u + left) by bv_omega] at tick
    rw [Beacon.afterTicks, tick, ih (by omega)]

/-- The byte of a timed hold starts a countdown of `16 * d` ticks, `d` its low half (42 R251, R252). -/
theorem Beacon.byteRule_hold (b : Beacon) (hv : (0x11#8 ≤ v ∧ v ≤ 0x1F#8) ∨ (0x21#8 ≤ v ∧ v ≤ 0x2F#8)) :
    b.byteRule p v =
      (b.startHold (decide (v ≤ 0x1F#8)) (BitVec.ofNat 8 (16 * (v.toNat % 16))), .ret) := by
  have ticks : 16#8 * (v &&& 0x0F#8) = BitVec.ofNat 8 (16 * (v.toNat % 16)) := by
    clear hv
    revert v
    decide
  rcases hv with ⟨lo, hi⟩ | ⟨lo, hi⟩
  · rw [Beacon.byteRule_holdOn b lo hi, ticks, decide_eq_true hi]
  · rw [Beacon.byteRule_holdOff b lo hi, ticks, decide_eq_false (by bv_omega)]

/-- Settles O31: the hold's `n` ticks are `u` of them and then the rest, the last of which interprets the next byte. -/
theorem holdDuration : Obligations.HoldDuration := by
  intro p m b v hp hb hf hv
  obtain ⟨⟨he, hi, -⟩, -⟩ := Beacon.atByte_iff.mp hb
  rw [Beacon.interpretLoop_ret hf (Beacon.byteRule_hold b hv)]
  have long : 1 ≤ v.toNat % 16 := by bv_omega
  have short : v.toNat % 16 < 16 := Nat.mod_lt _ (by decide)
  generalize decide (v ≤ 0x1F#8) = on
  generalize hn : 16 * (v.toNat % 16) = n
  refine ⟨fun u hu => ?_, ?_⟩
  · have counted := Beacon.afterTicks_startHold (p := p) m he hi on (u := u) (left := n - u) (by omega) (by omega)
    rw [Nat.add_sub_cancel' hu.le] at counted
    rw [counted]
    exact ⟨rfl, Nat.mod_eq_of_lt (by omega)⟩
  · have counted := Beacon.afterTicks_startHold (p := p) m he hi on (u := n - 1) (left := 1) (by omega) (by omega)
    rw [Nat.sub_add_cancel (by omega)] at counted
    calc Beacon.afterTicks p m n (b.startHold on (BitVec.ofNat 8 n))
        = Beacon.afterTicks p m (n - 1 + 1) (b.startHold on (BitVec.ofNat 8 n)) := by rw [Nat.sub_add_cancel (by omega)]
      _ = (b.startHold on 1#8).tick p m := by rw [Beacon.afterTicks_add, counted]; rfl
      _ = _ := Beacon.tick_startHold_one m hp hb on

end Sys2Proof.Machine
end

section
/-! O60. How the program counter moves (42 R259). -/

namespace Sys2Proof.Machine

variable {p : Params} {b b' : Beacon}

/-- What a tick's phases do to the program counter: it stays, an expiring hold or Symbol advances it, or an idle
transmitter adopts the pending message. -/
inductive Beacon.CounterMove (b b' : Beacon) : Prop where
  | stays (cur : b'.cur = b.cur) (pos : b'.bytePos = b.bytePos)
  | advances (cur : b'.cur = b.cur) (pos : b'.bytePos = b.bytePos + 1)
      (expired : b.cmdPause = 1#8 ∨ (b.offPause = 1#2 ∧ b.bitPos = 0#3))
  | adopts (en : b.enabled = true) (idle : b.idle = true) (pending : b.next ≠ none) (cur : b'.cur = b.next)
      (next : b'.next = none) (pos : b'.bytePos = 0)

theorem Beacon.counterPhase_counterMove {go : Bool} (h : b.counterPhase p = (b', go)) : b.CounterMove b' := by
  rcases Beacon.counterPhase_cases h with ⟨-, -, rfl, -⟩ | ⟨-, hz, rfl, -⟩ | ⟨-, -, -, rfl, -⟩ | ⟨-, -, -, rfl, -⟩ |
    ⟨-, -, -, -, rfl, -⟩ | ⟨-, -, -, -, -, rfl, -⟩ | ⟨-, -, -, hz, last, rfl, -⟩ | ⟨-, -, -, rfl, -⟩
  case inr.inl => -- a hold ends
    exact .advances rfl rfl (.inl (by bv_omega))
  case inr.inr.inr.inr.inr.inr.inl => -- a Symbol ends
    exact .advances rfl rfl (.inr ⟨by bv_omega, last⟩)
  all_goals exact .stays rfl rfl

theorem Beacon.tickPhases_counterMove {go : Bool} (hs : b.settled p) (h : b.tickPhases p = (b', go)) :
    b.CounterMove b' := by
  rcases Beacon.tickPhases_cases h with ⟨-, rfl, -⟩ | ⟨-, -, -, rfl, -⟩ | ⟨n, en, hi, hn, h⟩ | ⟨-, -, h⟩
  · exact .stays rfl rfl
  · exact .stays rfl rfl
  · obtain ⟨-, still, -⟩ := (Beacon.settled_iff_of_idle hi).mp hs
    rw [Beacon.counterPhase_of_still (b := b.adopt n) still] at h
    obtain ⟨rfl, -⟩ := Prod.mk.inj h
    exact .adopts en hi (by simp [hn]) hn.symm rfl rfl
  · exact Beacon.counterPhase_counterMove h

/-- What a byte does to the program counter: it stays at a byte that takes time, advances by one at a byte that takes
none, and loses its buffer at a byte that ends the message. -/
theorem ByteEffect.counterMove {v : Byte} {r : Beacon × ByteEnd} (h : ByteEffect v p b r) :
    (r.1.cur = b.cur ∧ r.1.bytePos = b.bytePos) ∨
    (r.1.cur = b.cur ∧ r.1.bytePos = b.bytePos + 1 ∧ (v ≤ 0x03#8 ∨ v = 0x10#8 ∨ v = 0x20#8)) ∨
    (r.1.cur = none ∧ r.1.idle = true ∧ r.1.bytePos = b.bytePos ∧ endsMessage v = true) := by
  cases h with
  | setPower hv => exact .inr (.inl ⟨rfl, rfl, .inl hv⟩)
  | zeroHoldOn hv => exact .inr (.inl ⟨rfl, rfl, .inr (.inl hv)⟩)
  | zeroHoldOff hv => exact .inr (.inl ⟨rfl, rfl, .inr (.inr hv)⟩)
  | holdOn | holdOff | space | symbol => exact .inl ⟨rfl, rfl⟩
  | ends hv => exact .inr (.inr ⟨rfl, rfl, rfl, hv⟩)

/-- Settles O60, from all that a step can do to one transmitter. -/
theorem programCounterMoves : Obligations.ProgramCounterMoves := by
  intro s t k b b' inv h hb hb'
  rcases State.step_beacon h hb hb' with rfl | ⟨ht, rfl⟩ | ⟨ht, v, hv, rfl⟩ |
    ⟨ht, ⟨m, es, -, rfl⟩ | ⟨es, -, rfl⟩ | ⟨es, he, rfl⟩ | ⟨es, he, rfl⟩⟩
  · exact .inl ⟨rfl, rfl⟩
  · have settled := (inv.beaconOk hb).2 (by simp [ht])
    cases Beacon.tickPhases_counterMove settled rfl with
    | stays cur pos => exact .inl ⟨cur, pos⟩
    | advances cur pos expired => exact .inr (.inr (.inl ⟨cur, pos, .inl ⟨ht, expired⟩⟩))
    | adopts en idle pending cur next pos => exact .inr (.inl ⟨ht, en, idle, pending, cur, next, pos⟩)
  · rcases (byteEffect_decodeByte v s.params b).counterMove with stays | ⟨cur, pos, range⟩ | ⟨cur, idle, pos, ends⟩
    · exact .inl stays
    · exact .inr (.inr (.inl ⟨cur, pos, .inr ⟨ht, v, hv, range⟩⟩))
    · exact .inr (.inr (.inr ⟨cur, idle, .inl ⟨ht, pos, v, hv, ends⟩⟩))
  · exact .inl ⟨rfl, rfl⟩
  · exact .inl ⟨rfl, rfl⟩
  · exact .inr (.inr (.inr ⟨rfl, rfl, .inr (.inl ⟨ht, rfl, es, he⟩)⟩))
  · exact .inr (.inr (.inr ⟨rfl, rfl, .inr (.inr ⟨ht, rfl, es, he⟩)⟩))

end Sys2Proof.Machine
end

section
/-! O13, O14. The Symbol bytes in the interpret phase (43 R281, R286). -/

namespace Sys2Proof.Machine

variable {p : Params} {v : Byte}

/-- Settles O13: both rows run the end-of-message reaction, which is END's. -/
theorem reservedSymbolEndsMessage : Obligations.ReservedSymbolEndsMessage := by
  intro s k b i row ht hb
  have same : exec i s = exec .endMsg s := by
    rcases row with rfl | rfl <;> rfl
  exact same.trans (endMessageEffect s k b ht hb)

/-- The stripping loop in the closed form of 43 R281: `n = 7 - k` elements after a filler of length `k`. -/
theorem Beacon.stripSymbol_of_isSymbol (b : Beacon) (hv : isSymbol v = true) :
    b.stripSymbol v = { b with
      shreg := v <<< (fillerLength v + 2)
      bitPos := BitVec.ofNat 3 (7 - fillerLength v - 1)
      key := true
      onPause := elementTicks (v.getLsbD (7 - fillerLength v - 1)) } := by
  obtain ⟨lo, hi⟩ := (isSymbol_iff_fillerLength v).mp hv
  have count : 7#3 - BitVec.ofNat 3 (fillerLength v) - 1#3 = BitVec.ofNat 3 (7 - fillerLength v - 1) := by bv_omega
  have first : (v <<< (fillerLength v + 1)).msb = v.getLsbD (7 - fillerLength v - 1) := by
    simp [BitVec.msb_eq_getLsbD_last, show ¬ 7 < fillerLength v + 1 by omega, Nat.sub_sub,
      BitVec.getLsbD_eq_getElem (show 6 - fillerLength v < 8 by omega)]
  rw [Beacon.stripSymbol_eq, count, first]
  rfl

/-- Settles O14: each of the six rows holds Symbol bytes, whose rule is the stripping loop. -/
theorem symbolEffect : Obligations.SymbolEffect := by
  intro s k b i row ht hb
  obtain ⟨wf, symbol⟩ : i.wf = true ∧ isSymbol (encode i) = true := by
    rcases row with ⟨x, rfl⟩ | ⟨x, rfl⟩ | ⟨x, rfl⟩ | ⟨x, rfl⟩ | ⟨x, rfl⟩ | ⟨x, rfl⟩ <;>
      exact ⟨rfl, by revert x; decide⟩
  rw [exec_eq i ht hb, ← Beacon.byteRule_encode b wf, Beacon.byteRule_symbol b symbol,
    Beacon.stripSymbol_of_isSymbol b symbol]
  rfl

end Sys2Proof.Machine
end

section
/-! O21, O22, O23. The counters of a Symbol (43 R282 to R285): an equation of the counter phase for each way one of them
can go, and the steps of the machine. -/

namespace Sys2Proof.Machine

variable {b : Beacon}

/-- The last tick of an on phase starts the gap (43 R282). -/
theorem Beacon.counterPhase_on_ends (p : Params) (hc : b.cmdPause = 0#8) (ho : b.onPause = 1#2) :
    b.counterPhase p =
      ({ b with onPause := 0#2, key := false, offPause := if b.bitPos = 0#3 then 3#2 else 1#2 }, false) := by
  simp [Beacon.counterPhase, Beacon.countOn, hc, ho]

/-- Any other tick of an on phase counts it down (43 R282). -/
theorem Beacon.counterPhase_on (p : Params) (hc : b.cmdPause = 0#8) (ho : b.onPause ≠ 0#2) (more : b.onPause ≠ 1#2) :
    b.counterPhase p = ({ b with onPause := b.onPause - 1#2 }, false) := by
  have left : b.onPause - 1#2 ≠ 0#2 := by bv_omega
  simp [Beacon.counterPhase, Beacon.countOn, hc, ho, left]

/-- A gap with more than one tick left counts down (43 R283). -/
theorem Beacon.counterPhase_gap (p : Params) (hc : b.cmdPause = 0#8) (ho : b.onPause = 0#2) (hf : b.offPause ≠ 0#2)
    (more : b.offPause ≠ 1#2) : b.counterPhase p = ({ b with offPause := b.offPause - 1#2 }, false) := by
  have left : b.offPause - 1#2 ≠ 0#2 := by bv_omega
  simp [Beacon.counterPhase, Beacon.countOff, hc, ho, hf, left]

/-- The last tick of a gap with elements left starts the next one (43 R284). -/
theorem Beacon.counterPhase_next_element (p : Params) (hc : b.cmdPause = 0#8) (ho : b.onPause = 0#2)
    (hf : b.offPause = 1#2) (more : b.bitPos ≠ 0#3) :
    b.counterPhase p = ({ b with offPause := 0#2 }.nextElement, false) := by
  simp [Beacon.counterPhase, Beacon.countOff, hc, ho, hf, more]

/-- The last tick of a Symbol's last gap reaches the next byte (43 R285). -/
theorem Beacon.counterPhase_symbol_ends (p : Params) (hc : b.cmdPause = 0#8) (ho : b.onPause = 0#2)
    (hf : b.offPause = 1#2) (last : b.bitPos = 0#3) :
    b.counterPhase p =
      ({ b with offPause := 0#2, bytePos := b.bytePos + 1, bitPos := 7#3 }, !p.boundaryExtraTick) := by
  simp [Beacon.counterPhase, Beacon.countOff, Beacon.atBoundary, Beacon.advance, hc, ho, hf, last]

/-- Settles O21, by whether the tick is the on phase's last. -/
theorem onPhaseCountdown : Obligations.OnPhaseCountdown := by
  intro s k b ht hb he hi hc ho
  have phases := Beacon.tickPhases_active s.params he hi
  split
  · rename_i last
    exact State.step_tick ht hb (phases.trans (Beacon.counterPhase_on_ends s.params hc last))
  · rename_i more
    exact State.step_tick ht hb (phases.trans (Beacon.counterPhase_on s.params hc ho more))

/-- Settles O22: the element that starts is the top bit of `shreg`. -/
theorem nextElementStarts : Obligations.NextElementStarts := by
  intro s k b ht hb he hi hc ho hf more
  rw [State.step_tick ht hb ((Beacon.tickPhases_active s.params he hi).trans
    (Beacon.counterPhase_next_element s.params hc ho hf more)), Beacon.nextElement, BitVec.msb_eq_getLsbD_last]
  rfl

/-- Settles O23, by whether the tick is the gap's last. -/
theorem gapCountdownAndSymbolEnd : Obligations.GapCountdownAndSymbolEnd := by
  intro s k b ht hb he hi hc ho hf
  have phases := Beacon.tickPhases_active s.params he hi
  refine ⟨fun more => ?_, fun due last => ?_⟩
  · exact State.step_tick ht hb (phases.trans (Beacon.counterPhase_gap s.params hc ho hf more))
  · rw [State.step_tick ht hb (phases.trans (Beacon.counterPhase_symbol_ends s.params hc ho due last))]
    cases s.params.boundaryExtraTick <;> rfl

end Sys2Proof.Machine
end

section
/-! O30. The key waveform of a Symbol (43 R287): each element is keyed for its length, then a gap of 1 tick, or of 3
after the last one. -/

namespace Sys2Proof.Machine

variable {p : Params} {m : Memory} {b : Beacon} {e : Element} {es : List Element}

/-! ## The elements left -/

/-- The elements not yet keyed as `shreg` holds them: left-aligned, 1 a dash, zeros below (10 R26). -/
def leftAligned (pat : List Element) : Byte := patternBits pat <<< (8 - pat.length)

/-- A pattern moved up until its first element is out of the byte leaves the others left-aligned. -/
theorem patternBits_cons_shiftLeft (e : Element) {es : List Element} (h : es.length ≤ 8) :
    patternBits (e :: es) <<< (8 - es.length) = leftAligned es := by
  rw [patternBits, BitVec.shiftLeft_or_distrib, ← BitVec.shiftLeft_add, Nat.add_sub_cancel' h,
    BitVec.shiftLeft_eq_zero (Nat.le_refl 8), BitVec.zero_or, leftAligned]

theorem leftAligned_cons_shiftLeft (e : Element) {es : List Element} (h : es.length < 8) :
    leftAligned (e :: es) <<< 1 = leftAligned es := by
  rw [leftAligned, ← BitVec.shiftLeft_add, List.length_cons, show 8 - (es.length + 1) + 1 = 8 - es.length by omega,
    patternBits_cons_shiftLeft e h.le]

/-- The top bit of `shreg` is the next element. -/
theorem leftAligned_cons_msb (e : Element) {es : List Element} (h : es.length < 8) :
    (leftAligned (e :: es)).msb = decide (e = .dash) := by
  rw [leftAligned, BitVec.msb_eq_getLsbD_last, BitVec.getLsbD_shiftLeft, patternBits_getLsbD (by simpa using h)]
  simp [show 7 - (7 - es.length) = es.length by omega, show ¬ 7 < 7 - es.length by omega]

theorem elementTicks_eq_len (e : Element) : elementTicks (decide (e = .dash)) = BitVec.ofNat 2 e.len := by
  cases e <;> rfl

theorem Element.len_bounds (e : Element) : 1 ≤ e.len ∧ e.len ≤ 3 := by
  cases e <;> decide

/-! ## A transmitter inside a Symbol -/

/-- `b` in an element of a Symbol, with `n` ticks left of it and the elements `es` to come. -/
def Beacon.inElement (es : List Element) (n : Nat) (b : Beacon) : Beacon :=
  { b with shreg := leftAligned es, bitPos := BitVec.ofNat 3 es.length, key := true, onPause := BitVec.ofNat 2 n }

/-- `b` in the gap after an element of a Symbol, with `n` ticks left of it and the elements `es` to come. -/
def Beacon.inGap (es : List Element) (n : Nat) (b : Beacon) : Beacon :=
  { b with shreg := leftAligned es, bitPos := BitVec.ofNat 3 es.length, key := false, offPause := BitVec.ofNat 2 n }

/-- The gap after an element, by the elements to come (43 R282). -/
def gapTicks (es : List Element) : Nat := if es.isEmpty then 3 else 1

/-- A Symbol byte starts the first element of its pattern (43 R281). -/
theorem Beacon.stripSymbol_pack (b : Beacon) (h : (e :: es).length ≤ 6) :
    b.stripSymbol (pack (e :: es)) = b.inElement es e.len := by
  have len : es.length ≤ 5 := Nat.le_of_succ_le_succ h
  have filler : fillerLength (pack (e :: es)) = 6 - es.length := by
    rw [fillerLength_pack h, List.length_cons]
    omega
  have first : (pack (e :: es)).getLsbD es.length = decide (e = .dash) := by
    rw [pack_getLsbD h (by omega)]
    simp
  have others : pack (e :: es) <<< (8 - es.length) = leftAligned es := by
    rw [pack, BitVec.shiftLeft_or_distrib, patternBits_cons_shiftLeft e (by omega), ← BitVec.shiftLeft_add,
      BitVec.shiftLeft_eq_zero (by rw [List.length_cons]; omega), BitVec.zero_or]
  rw [Beacon.stripSymbol_of_isSymbol b (isSymbol_pack (by simp) h), filler,
    show 7 - (6 - es.length) - 1 = es.length by omega, show 6 - es.length + 2 = 8 - es.length by omega, first, others,
    elementTicks_eq_len]
  rfl

/-- `c` is `b` somewhere inside a Symbol, with the carrier at `on`: nothing but the Symbol's own fields (43 R280) has
changed. -/
def Beacon.emits (b : Beacon) (on : Bool) (c : Beacon) : Prop :=
  c = { b with shreg := c.shreg, bitPos := c.bitPos, key := on, onPause := c.onPause, offPause := c.offPause }

theorem Beacon.emits_inElement (es : List Element) (n : Nat) (b : Beacon) : b.emits true (b.inElement es n) := rfl

theorem Beacon.emits_inGap (es : List Element) (n : Nat) (b : Beacon) : b.emits false (b.inGap es n) := rfl

theorem Beacon.emits.key_eq {c : Beacon} {on : Bool} (h : b.emits on c) : c.key = on := congrArg Beacon.key h

theorem Beacon.emits.bytePos_eq {c : Beacon} {on : Bool} (h : b.emits on c) : c.bytePos = b.bytePos :=
  (congrArg Beacon.bytePos h :)

theorem Beacon.emits.isDone_eq {c : Beacon} {on : Bool} (h : b.emits on c) : c.isDone = b.isDone :=
  (congrArg Beacon.isDone h :)

/-- A countdown of at most 3 ticks, from what one tick of it does. -/
theorem Beacon.afterTicks_countdown {f : Nat → Beacon}
    (tick : ∀ n, 1 ≤ n → n ≤ 2 → (f (n + 1)).tick p m = f n) {u left : Nat} (hl : 1 ≤ left) (hle : u + left ≤ 3) :
    Beacon.afterTicks p m u (f (u + left)) = f left := by
  induction u with
  | zero => rw [Nat.zero_add]; rfl
  | succ u ih => rw [Beacon.afterTicks, Nat.add_right_comm, tick _ (by omega) (by omega), ih (by omega)]

/-! ## The ticks of a Symbol -/

section
variable (he : b.enabled = true) (hi : b.idle = false) (still : b.counting = false)
include he hi still

theorem Beacon.tick_inElement {n : Nat} (lo : 1 ≤ n) (hn : n ≤ 2) :
    (b.inElement es (n + 1)).tick p m = b.inElement es n := by
  obtain ⟨hc, -⟩ := Beacon.counting_eq_false.mp still
  have left : BitVec.ofNat 2 (n + 1) - 1#2 = BitVec.ofNat 2 n := by bv_omega
  have phases := (Beacon.tickPhases_active (b := b.inElement es (n + 1)) p he hi).trans
    (Beacon.counterPhase_on p hc (show BitVec.ofNat 2 (n + 1) ≠ 0#2 by bv_omega)
      (show BitVec.ofNat 2 (n + 1) ≠ 1#2 by bv_omega))
  rw [Beacon.tick_of_done m phases, Beacon.inElement, left]
  rfl

theorem Beacon.tick_inElement_one (h : es.length < 8) :
    (b.inElement es 1).tick p m = b.inGap es (gapTicks es) := by
  obtain ⟨hc, ho, -⟩ := Beacon.counting_eq_false.mp still
  have phases := (Beacon.tickPhases_active (b := b.inElement es 1) p he hi).trans
    (Beacon.counterPhase_on_ends p hc rfl)
  have gap : (if BitVec.ofNat 3 es.length = 0#3 then 3#2 else 1#2) = BitVec.ofNat 2 (gapTicks es) := by
    cases es with
    | nil => rfl
    | cons e es => exact if_neg (by rw [List.length_cons] at *; bv_omega)
  rw [Beacon.tick_of_done m phases, Beacon.inGap, ← gap, ← ho]
  rfl

theorem Beacon.tick_inGap {n : Nat} (lo : 1 ≤ n) (hn : n ≤ 2) : (b.inGap es (n + 1)).tick p m = b.inGap es n := by
  obtain ⟨hc, ho, -⟩ := Beacon.counting_eq_false.mp still
  have left : BitVec.ofNat 2 (n + 1) - 1#2 = BitVec.ofNat 2 n := by bv_omega
  have phases := (Beacon.tickPhases_active (b := b.inGap es (n + 1)) p he hi).trans
    (Beacon.counterPhase_gap p hc ho (show BitVec.ofNat 2 (n + 1) ≠ 0#2 by bv_omega)
      (show BitVec.ofNat 2 (n + 1) ≠ 1#2 by bv_omega))
  rw [Beacon.tick_of_done m phases, Beacon.inGap, left]
  rfl

theorem Beacon.tick_inGap_one_cons (h : (e :: es).length < 8) :
    (b.inGap (e :: es) 1).tick p m = b.inElement es e.len := by
  rw [List.length_cons] at h
  obtain ⟨hc, ho, hf⟩ := Beacon.counting_eq_false.mp still
  have phases := (Beacon.tickPhases_active (b := b.inGap (e :: es) 1) p he hi).trans
    (Beacon.counterPhase_next_element p hc ho rfl (show BitVec.ofNat 3 (es.length + 1) ≠ 0#3 by bv_omega))
  have count : BitVec.ofNat 3 (es.length + 1) - 1#3 = BitVec.ofNat 3 es.length := by bv_omega
  rw [Beacon.tick_of_done m phases, Beacon.inElement, ← leftAligned_cons_shiftLeft e (by omega), ← count,
    ← elementTicks_eq_len, ← leftAligned_cons_msb e (es := es) (by omega), ← hf]
  rfl

/-- The last tick of a Symbol interprets the next byte (decision D7). -/
theorem Beacon.tick_inGap_one_nil (hp : p.boundaryExtraTick = false) (bit : b.bitPos = 7#3) :
    (b.inGap [] 1).tick p m = Beacon.interpretLoop p m (p.msgCapacity + 1)
      { b with key := false, shreg := 0#8, bytePos := b.bytePos + 1 } := by
  obtain ⟨hc, ho, hf⟩ := Beacon.counting_eq_false.mp still
  have phases := (Beacon.tickPhases_active (b := b.inGap [] 1) p he hi).trans
    (Beacon.counterPhase_symbol_ends p hc ho rfl rfl)
  rw [hp] at phases
  rw [Beacon.tick_of_byte m phases, ← hf, ← bit]
  rfl

/-- An element is keyed for its length. -/
theorem Beacon.emits_in_element {u : Nat} (hu : u < e.len) :
    b.emits true (Beacon.afterTicks p m u (b.inElement es e.len)) := by
  obtain ⟨-, len⟩ := e.len_bounds
  have counted := Beacon.afterTicks_countdown (f := (b.inElement es ·)) (u := u) (left := e.len - u)
    (fun _ => Beacon.tick_inElement (p := p) (m := m) he hi still) (by omega) (by omega)
  rw [Nat.add_sub_cancel' hu.le] at counted
  rw [counted]
  exact Beacon.emits_inElement es _ b

/-- After its length an element is followed by its gap. -/
theorem Beacon.afterTicks_element_add (h : es.length < 8) (u : Nat) :
    Beacon.afterTicks p m (e.len + u) (b.inElement es e.len) =
      Beacon.afterTicks p m u (b.inGap es (gapTicks es)) := by
  obtain ⟨lo, len⟩ := e.len_bounds
  have counted := Beacon.afterTicks_countdown (f := (b.inElement es ·)) (u := e.len - 1) (left := 1)
    (fun _ => Beacon.tick_inElement (p := p) (m := m) he hi still) (by omega) (by omega)
  rw [Nat.sub_add_cancel lo] at counted
  rw [show e.len + u = e.len - 1 + (u + 1) by omega, Beacon.afterTicks_add, counted, Beacon.afterTicks,
    Beacon.tick_inElement_one he hi still h]

/-- After a gap of one tick the next element starts. -/
theorem Beacon.afterTicks_gap_add (h : (e :: es).length < 8) (u : Nat) :
    Beacon.afterTicks p m (1 + u) (b.inGap (e :: es) 1) = Beacon.afterTicks p m u (b.inElement es e.len) := by
  rw [Nat.one_add, Beacon.afterTicks, Beacon.tick_inGap_one_cons he hi still h]

/-- The last gap of a Symbol keeps the carrier off for 3 ticks. -/
theorem Beacon.emits_in_last_gap {u : Nat} (hu : u < 3) :
    b.emits false (Beacon.afterTicks p m u (b.inGap [] 3)) := by
  have counted := Beacon.afterTicks_countdown (f := (b.inGap [] ·)) (u := u) (left := 3 - u)
    (fun _ => Beacon.tick_inGap (p := p) (m := m) he hi still) (by omega) (by omega)
  rw [Nat.add_sub_cancel' hu.le] at counted
  rw [counted]
  exact Beacon.emits_inGap [] _ b

/-- After its last gap the Symbol is over. -/
theorem Beacon.afterTicks_last_gap (hp : p.boundaryExtraTick = false) (bit : b.bitPos = 7#3) :
    Beacon.afterTicks p m 3 (b.inGap [] 3) = Beacon.interpretLoop p m (p.msgCapacity + 1)
      { b with key := false, shreg := 0#8, bytePos := b.bytePos + 1 } := by
  have counted := Beacon.afterTicks_countdown (f := (b.inGap [] ·)) (u := 2) (left := 1)
    (fun _ => Beacon.tick_inGap (p := p) (m := m) he hi still) (by omega) (by omega)
  rw [Beacon.afterTicks_add p m 2 1, counted]
  exact Beacon.tick_inGap_one_nil he hi still hp bit

end

/-! ## The closed form, element by element -/

theorem symbolTicks_singleton (e : Element) : symbolTicks [e] = e.len + 3 := by simp [symbolTicks]

theorem symbolTicks_cons_cons (e f : Element) (es : List Element) :
    symbolTicks (e :: f :: es) = e.len + (1 + symbolTicks (f :: es)) := by
  simp only [symbolTicks, List.map_cons, List.sum_cons, List.length_cons]
  omega

theorem keyAfter_of_lt {u : Nat} (hu : u < e.len) (es : List Element) : keyAfter (e :: es) u = true := if_pos hu

theorem keyAfter_len (e : Element) (es : List Element) : keyAfter (e :: es) e.len = false := by simp [keyAfter]

theorem keyAfter_len_add (e : Element) (es : List Element) (u : Nat) :
    keyAfter (e :: es) (e.len + (1 + u)) = keyAfter es u := by
  simp [keyAfter]

theorem keyAfter_last_gap (e : Element) (u : Nat) : keyAfter [e] (e.len + u) = false := by
  cases u with
  | zero => exact keyAfter_len e []
  | succ u => rw [Nat.add_comm u, keyAfter_len_add, keyAfter]

/-- From the first element of a pattern on: inside the pattern's duration the carrier follows the closed form, and at
its end the next byte is interpreted with the carrier off (43 R287). -/
theorem Beacon.afterTicks_pattern (hp : p.boundaryExtraTick = false) (he : b.enabled = true) (hi : b.idle = false)
    (bit : b.bitPos = 7#3) (still : b.counting = false) (e : Element) {es : List Element} (h : es.length < 7) :
    (∀ u < symbolTicks (e :: es),
      b.emits (keyAfter (e :: es) u) (Beacon.afterTicks p m u (b.inElement es e.len))) ∧
    Beacon.afterTicks p m (symbolTicks (e :: es)) (b.inElement es e.len) =
      Beacon.interpretLoop p m (p.msgCapacity + 1)
        { b with key := false, shreg := 0#8, bytePos := b.bytePos + 1 } := by
  induction es generalizing e with
  | nil =>
    have gap := Beacon.afterTicks_element_add (p := p) (m := m) (e := e) (es := []) he hi still (by decide)
    rw [symbolTicks_singleton, gap]
    refine ⟨fun u hu => ?_, Beacon.afterTicks_last_gap he hi still hp bit⟩
    rcases Nat.lt_or_ge u e.len with on | off
    · rw [keyAfter_of_lt on]
      exact Beacon.emits_in_element he hi still on
    · obtain ⟨w, rfl⟩ := Nat.exists_eq_add_of_le off
      rw [keyAfter_last_gap, gap]
      exact Beacon.emits_in_last_gap he hi still (by omega)
  | cons f es ih =>
    have gap := Beacon.afterTicks_element_add (p := p) (m := m) (e := e) he hi still (Nat.lt_succ_of_lt h)
    have next := Beacon.afterTicks_gap_add (p := p) (m := m) he hi still (Nat.lt_succ_of_lt h)
    obtain ⟨inside, after⟩ := ih f (Nat.lt_of_succ_lt h)
    rw [symbolTicks_cons_cons, gap]
    refine ⟨fun u hu => ?_, (next _).trans after⟩
    rcases Nat.lt_trichotomy u e.len with on | rfl | off
    · rw [keyAfter_of_lt on]
      exact Beacon.emits_in_element he hi still on
    · rw [keyAfter_len]
      exact gap 0 ▸ Beacon.emits_inGap (f :: es) 1 b
    · obtain ⟨w, rfl⟩ := Nat.exists_eq_add_of_le (Nat.succ_le_of_lt off)
      rw [Nat.succ_eq_add_one, Nat.add_assoc, keyAfter_len_add, gap]
      exact next w ▸ inside w (by omega)

/-- The Symbol that a transmitter interprets, for its whole duration: 43 R287 with all that stays as it is. -/
theorem Beacon.afterTicks_symbol {v : Byte} (hp : p.boundaryExtraTick = false) (hb : b.atByte p)
    (hf : b.fetch p m = .ok v) (hv : isSymbol v = true) :
    (∀ u < symbolTicks (unpack v), b.emits (keyAfter (unpack v) u)
      (Beacon.afterTicks p m u (b.interpretLoop p m (p.msgCapacity + 1)))) ∧
    Beacon.afterTicks p m (symbolTicks (unpack v)) (b.interpretLoop p m (p.msgCapacity + 1)) =
      Beacon.interpretLoop p m (p.msgCapacity + 1)
        { b with key := false, shreg := 0#8, bytePos := b.bytePos + 1 } := by
  obtain ⟨⟨he, hi, -⟩, bit, still, -⟩ := Beacon.atByte_iff.mp hb
  obtain ⟨lo, len⟩ := (isSymbol_iff_fillerLength v).mp hv
  have packed := pack_unpack hv
  have count := length_unpack v
  rw [Beacon.interpretLoop_ret hf (Beacon.byteRule_symbol b hv)]
  cases pattern : unpack v with
  | nil =>
    rw [pattern, List.length_nil] at count
    omega
  | cons e es =>
    rw [pattern] at packed
    rw [pattern, List.length_cons] at count
    rw [← packed, Beacon.stripSymbol_pack b (by rw [List.length_cons]; omega)]
    exact Beacon.afterTicks_pattern hp he hi bit still e (by omega)

/-- Settles O30: what a Symbol emits, read at the key and at the byte position. -/
theorem symbolWaveform : Obligations.SymbolWaveform := by
  intro p m b v hp hb hf hv
  obtain ⟨inside, after⟩ := Beacon.afterTicks_symbol hp hb hf hv
  exact ⟨fun u hu => ⟨(inside u hu).key_eq, (inside u hu).bytePos_eq⟩, after⟩

end Sys2Proof.Machine
end

section
/-! O33. The single dot (43 R289): adoption and the Symbol of one dot, then END. -/

namespace Sys2Proof.Machine

variable {p : Params} {m : Memory} {h : Handle}

/-- The transmitter of R289: enabled at reset, with a message pending. -/
def Beacon.pendingAtReset (p : Params) (h : Handle) : Beacon := { Beacon.reset p with enabled := true, next := some h }

/-- It adopts the message at tick 1 and interprets byte 0 (decision D6). -/
theorem Beacon.afterTicks_pendingAtReset (u : Nat) :
    Beacon.afterTicks p m (u + 1) (Beacon.pendingAtReset p h) =
      Beacon.afterTicks p m u
        (((Beacon.pendingAtReset p h).adopt h).interpretLoop p m (p.msgCapacity + 1)) := by
  rw [Beacon.afterTicks, Beacon.tick_of_byte m (Beacon.tickPhases_adopt p rfl rfl rfl rfl)]

/-- The single dot, tick by tick: the waveform of its Symbol for 4 ticks, and then END (decision D7). -/
theorem Beacon.afterTicks_singleDot (hp : p.boundaryExtraTick = false) (hh : h < p.nBuffers)
    (dot : msgRead p m h 0 = 0xFC#8) (fin : msgRead p m h 1 = 0x7F#8) :
    (∀ u < 4, ((Beacon.pendingAtReset p h).adopt h).emits (keyAfter [.dot] u)
      (Beacon.afterTicks p m (u + 1) (Beacon.pendingAtReset p h))) ∧
    Beacon.afterTicks p m 5 (Beacon.pendingAtReset p h) =
      { (Beacon.pendingAtReset p h).adopt h with key := false, shreg := 0#8, bytePos := 1 }.endReaction p := by
  have atByte : ((Beacon.pendingAtReset p h).adopt h).atByte p :=
    Beacon.atByte_iff.mpr ⟨⟨rfl, rfl, by simp, slotOk_some hh, slotOk_none⟩, rfl, rfl, Nat.zero_le _⟩
  have fetchedDot : ((Beacon.pendingAtReset p h).adopt h).fetch p m = .ok 0xFC#8 :=
    (Beacon.fetch_of_cur m rfl hh).trans (congrArg Except.ok dot)
  have fetchedEnd : ({ (Beacon.pendingAtReset p h).adopt h with key := false, shreg := 0#8, bytePos := 1 } :
      Beacon).fetch p m = .ok 0x7F#8 := (Beacon.fetch_of_cur m rfl hh).trans (congrArg Except.ok fin)
  obtain ⟨inside, after⟩ := Beacon.afterTicks_symbol hp atByte fetchedDot rfl
  rw [show unpack 0xFC#8 = [.dot] by decide, show symbolTicks [.dot] = 4 from rfl] at inside after
  simp only [Beacon.afterTicks_pendingAtReset]
  exact ⟨inside, after.trans (Beacon.interpretLoop_ret fetchedEnd (Beacon.byteRule_ends _ rfl) _)⟩

/-- Settles O33, reading the key and `isDone` off each of the five ticks. -/
theorem singleDotMessage : Obligations.SingleDotMessage := by
  intro p m h hp _ hh dot fin
  obtain ⟨inside, last⟩ := Beacon.afterTicks_singleDot hp hh dot fin
  have tick1 := inside 0 (by decide)
  have tick2 := inside 1 (by decide)
  have tick3 := inside 2 (by decide)
  have tick4 := inside 3 (by decide)
  simp only [List.map_cons, List.map_nil, List.cons.injEq, and_true]
  exact ⟨⟨tick1.key_eq, tick2.key_eq, tick3.key_eq, tick4.key_eq, congrArg Beacon.key last⟩,
    tick1.isDone_eq, tick2.isDone_eq, tick3.isDone_eq, tick4.isDone_eq, congrArg Beacon.isDone last⟩

end Sys2Proof.Machine
end

section
/-! O34, O35, O36, O37, O38. The host's operations on one transmitter (44 R301 to R305). -/

namespace Sys2Proof.Machine

variable {s : State} {i : Nat} {es : List Event} {b : Beacon}

/-! ## The operations as steps -/

/-- A buffer that no other transmitter has is installed (44 R301). -/
theorem State.install_free {h : Handle} (free : s.heldElsewhere i h = false) (b : Beacon) (r : Option Reply) :
    s.install i b h r =
      .next { s with beacons := s.beacons.set i (b.setNext h), loans := (i, h) :: s.loans, reply := r } :=
  if_neg (by simp [free])

/-- `setEnabled` puts the transmitter enabled or disabled in its place, and writes nothing else (44 R303, R304). -/
theorem State.step_setEnabled {on : Bool} (ht : s.turn = .host) (he : s.events = .setEnabled i on :: es)
    (hb : s.beacons[i]? = some b) :
    step s = .next { s.takeEvent es with
      beacons := s.beacons.set i (if on then b.enable else b.disable s.params), reply := none } := by
  rw [State.step_event ht he, State.perform, State.onBeacon_eq (s := s.takeEvent es) hb]
  rfl

/-- Settles O34: the index and the handle are real and nobody else has the buffer, so nothing is refused. -/
theorem setNextMessageInstalls : Obligations.SetNextMessageInstalls := by
  intro s i h es b ht he hb hh free
  rw [State.step_event ht he, State.perform, State.onBeacon_eq (s := s.takeEvent es) hb,
    State.realHandle_eq (s := s.takeEvent es) hh, State.install_free free]
  rfl

/-- Settles O35: the answer is the model's `Beacon.isDone`. -/
theorem isDoneAnswers : Obligations.IsDoneAnswers := by
  intro s i es b ht he hb
  rw [State.step_event ht he, State.perform, State.onBeacon_eq (s := s.takeEvent es) hb, Beacon.isDone]

/-- Settles O36: `setEnabled` with true, `Beacon.enable` written out. -/
theorem enableEffect : Obligations.EnableEffect := fun _ _ _ _ => State.step_setEnabled

/-- Settles O37: `setEnabled` with false, `Beacon.disable` written out. -/
theorem disableEffect : Obligations.DisableEffect := fun _ _ _ _ => State.step_setEnabled

/-! ## After a disable and an enable -/

/-- A transmitter that one tick leaves as it is stays so for ever. -/
theorem Beacon.afterTicks_of_tick_eq {p : Params} {m : Memory} (still : b.tick p m = b) (n : Nat) :
    Beacon.afterTicks p m n b = b := by
  induction n with
  | zero => rfl
  | succ n ih => rw [Beacon.afterTicks, still, ih]

/-- A disable leaves nothing pending where nothing was, whatever `DISABLE_CLEARS_NEXT` says (log 15). -/
theorem Beacon.disable_next_of_none (p : Params) (hn : b.next = none) : (b.disable p).next = none := by
  rw [Beacon.disable_next, hn, ite_self]

/-- Settles O38: enabled again the transmitter is idle with nothing pending, and its tick does nothing (42 R242). -/
theorem disableForgetsMessage : Obligations.DisableForgetsMessage := by
  intro p m b n hn
  have idle : (b.disable p).enable.idle = true := rfl
  have none_pending : (b.disable p).enable.next = none := Beacon.disable_next_of_none p hn
  have still : (b.disable p).enable.tick p m = (b.disable p).enable :=
    Beacon.tick_of_done m (Beacon.tickPhases_idle p (Beacon.enable_enabled _) idle none_pending)
  refine ⟨Beacon.afterTicks_of_tick_eq still n, rfl, rfl, ?_⟩
  simp only [Beacon.isDone, idle, none_pending, Option.isNone_none, Bool.and_self, Bool.or_true]

end Sys2Proof.Machine
end

section
/-! O25, O27, O39, O40. The array manager (45 R321 to R324): where a cycle begins, that the order of its ticks does not
matter, and what `handoff` and an argument outside the interface answer. -/

namespace Sys2Proof.Machine

variable {s : State} {i k : Nat} {l : List Nat}

/-! ## The order of the ticks -/

/-- The state in which the transmitters whose index is in `l` have had one tick each, as `cycle()` has it for all. -/
def State.ticked (s : State) (l : List Nat) : State :=
  { s with beacons := s.beacons.mapIdx fun i b => if i ∈ l then b.tick s.params s.mem else b }

theorem State.ticked_nil (s : State) : s.ticked [] = s := by
  have beacons : (s.beacons.mapIdx fun i b => if i ∈ [] then b.tick s.params s.mem else b) = s.beacons :=
    List.ext_getElem (by simp) (by simp)
  exact congrArg (fun bs => { s with beacons := bs }) beacons

/-- A tick touches one transmitter only, and reads nothing that another tick writes (45 R320, R322). -/
theorem State.ticked_tickOne (s : State) (fresh : k ∉ l) : (s.tickOne k).ticked l = s.ticked (k :: l) := by
  have beacons : (s.tickOne k).beacons.mapIdx (fun i b => if i ∈ l then b.tick s.params s.mem else b) =
      s.beacons.mapIdx fun i b => if i ∈ k :: l then b.tick s.params s.mem else b := by
    refine List.ext_getElem? fun i => ?_
    rw [State.tickOne, List.getElem?_mapIdx, List.getElem?_mapIdx, List.getElem?_modify]
    by_cases h : k = i
    · subst h
      simp [fresh, Function.comp_def]
    · simp [h, Ne.symm h]
  exact congrArg (fun bs => { s with beacons := bs }) beacons

theorem State.foldl_tickOne (s : State) (nodup : l.Nodup) : l.foldl State.tickOne s = s.ticked l := by
  induction l generalizing s with
  | nil => exact s.ticked_nil.symm
  | cons k l ih =>
    obtain ⟨fresh, nodup⟩ := List.nodup_cons.mp nodup
    rw [List.foldl_cons, ih _ nodup, s.ticked_tickOne fresh]

theorem State.ticked_eq_cycle (all : ∀ i < s.beacons.length, i ∈ l) : s.ticked l = s.cycle := by
  have beacons : (s.beacons.mapIdx fun i b => if i ∈ l then b.tick s.params s.mem else b) =
      s.beacons.map (Beacon.tick s.params s.mem) :=
    List.ext_getElem (by simp) fun i _ hi => by simp [all i (by simpa using hi)]
  exact congrArg (fun bs => { s with beacons := bs }) beacons

/-- Settles O27: a permutation of the indexes names each transmitter exactly once. -/
theorem cycleOrderIrrelevant : Obligations.CycleOrderIrrelevant := by
  intro s l perm
  rw [s.foldl_tickOne (perm.nodup_iff.mpr List.nodup_range)]
  exact State.ticked_eq_cycle fun i hi => perm.mem_iff.mpr (List.mem_range.mpr hi)

/-! ## The beginning of a cycle -/

theorem State.beginCycle_of_ne_nil (ne : s.beacons ≠ []) : s.beginCycle = { s with turn := .tick 0 } := by
  rw [State.beginCycle, if_neg (mt List.eq_nil_of_length_eq_zero ne)]

/-- Settles O25: both steps are `State.beginCycle`, and taking an event leaves the array as it is. -/
theorem cycleBegins : Obligations.CycleBegins := by
  intro s ht ne
  refine ⟨fun he => ?_, fun es he => ?_⟩
  · rw [State.step_idle ht he, State.beginCycle_of_ne_nil ne]
  · rw [State.step_event ht he, State.perform, State.beginCycle_of_ne_nil (s := s.takeEvent es) ne]

/-! ## The hand-off -/

/-- `handoff` of a real buffer, up to its question whether the beacon is done (45 R324, decision D24). -/
theorem State.step_handoff {h : Handle} {es : List Event} {b : Beacon} (ht : s.turn = .host)
    (he : s.events = .handoff i (some h) :: es) (hb : s.beacons[i]? = some b) (hh : h < s.params.nBuffers) :
    step s = if b.isDone then (s.takeEvent es).install i b h (some (.accepted true))
      else .next { s.takeEvent es with reply := some (.accepted false) } := by
  rw [State.step_event ht he, State.perform, State.onBeacon_eq (s := s.takeEvent es) hb,
    State.realHandle_eq (s := s.takeEvent es) hh]

/-- Settles O39, by what `isDone` answers. -/
theorem handoffGate : Obligations.HandoffGate := by
  intro s i h es b ht he hb hh
  rw [State.step_handoff ht he hb hh]
  refine ⟨fun done free => ?_, fun busy => ?_⟩
  · rw [if_pos done, State.install_free free]
    rfl
  · rw [if_neg (Bool.eq_false_iff.mp busy)]

/-! ## Arguments outside the interface -/

theorem State.onBeacon_badIndex (out : s.beacons.length ≤ i) (f : Beacon → Host.Outcome State Fault Refusal) :
    s.onBeacon i f = .refused .badIndex := by
  rw [State.onBeacon, List.getElem?_eq_none out]

theorem State.realHandle_none (f : Handle → Host.Outcome State Fault Refusal) :
    s.realHandle none f = .refused .noHandle := rfl

theorem State.realHandle_noSuchBuffer {h : Handle} (out : s.params.nBuffers ≤ h)
    (f : Handle → Host.Outcome State Fault Refusal) : s.realHandle (some h) f = .refused .noSuchBuffer :=
  if_neg out.not_gt

/-- The two operations that take a handle first look at it, on a beacon of the array (44 R301, 45 R324). -/
theorem State.step_realHandle {o : Option Handle} {es : List Event} (ht : s.turn = .host)
    (hi : i < s.beacons.length) (he : s.events = .setNextMessage i o :: es ∨ s.events = .handoff i o :: es) :
    ∃ f, step s = (s.takeEvent es).realHandle o f := by
  have hb := List.getElem?_eq_getElem hi
  rcases he with he | he <;>
  · rw [State.step_event ht he, State.perform, State.onBeacon_eq (s := s.takeEvent es) hb]
    exact ⟨_, rfl⟩

/-- Settles O40: the index is looked up first, then the handle. -/
theorem outsideInterfaceRefused : Obligations.OutsideInterfaceRefused := by
  intro s i o on es ht
  refine ⟨fun out he => ?_, fun hi he => ?_⟩
  · have badIndex := State.onBeacon_badIndex (s := s.takeEvent es) out
    rcases he with he | he | he | he <;> exact (State.step_event ht he).trans (badIndex _)
  · obtain ⟨f, step_eq⟩ := State.step_realHandle ht hi he
    rw [step_eq]
    refine ⟨?_, ?_⟩
    · rintro rfl
      exact State.realHandle_none f
    · rintro h rfl out
      exact State.realHandle_noSuchBuffer (s := s.takeEvent es) out f

end Sys2Proof.Machine
end

section
/-! O57. No step faults under the invariant (60 R340): inside a cycle every step completes, and between operations the
host's calls complete or are refused. -/

namespace Sys2Proof.Machine

variable {s : State} {k : Nat} {b : Beacon} {o o' : Host.Outcome State Fault Refusal}

/-! ## Outcomes without a fault -/

/-- An outcome that is no fault. -/
def Faultless (o : Host.Outcome State Fault Refusal) : Prop := ∀ f, o ≠ .fault f

theorem Faultless.next (t : State) : Faultless (.next t) := nofun

theorem Faultless.refused (r : Refusal) : Faultless (.refused r) := nofun

theorem Faultless.ite {c : Prop} [Decidable c] (yes : Faultless o) (no : Faultless o') :
    Faultless (if c then o else o') := by
  split
  · exact yes
  · exact no

theorem Completes.faultless (h : Completes o) : Faultless o := by
  obtain ⟨t, rfl⟩ := h
  exact .next t

theorem Completes.ne_refused (h : Completes o) (r : Refusal) : o ≠ .refused r := by
  obtain ⟨t, rfl⟩ := h
  nofun

/-! ## Inside a cycle -/

/-- The turn names a transmitter the array has, so no step answers `noActiveBeacon`. -/
theorem State.Inv.exists_beacon (hs : s.Inv) (hk : s.turn.beacon? = some k) : ∃ b, s.beacons[k]? = some b := by
  obtain ⟨-, -, -, -, turnOk, -⟩ := hs
  exact ⟨_, List.getElem?_eq_getElem (turnOk k hk)⟩

/-- A transmitter at a byte has a message in a real buffer, so its fetch answers (42 R245). -/
theorem Beacon.fetch_of_atByte {p : Params} (m : Memory) (hb : b.atByte p) : ∃ v, b.fetch p m = .ok v := by
  obtain ⟨⟨-, -, cur, curOk, -⟩, -⟩ := Beacon.atByte_iff.mp hb
  obtain ⟨h, hc⟩ := Option.ne_none_iff_exists'.mp cur
  exact ⟨_, Beacon.fetch_of_cur m hc (curOk h hc)⟩

theorem State.Inv.completes_tick (hs : s.Inv) (ht : s.turn = .tick k) : Completes (step s) := by
  obtain ⟨b, hb⟩ := hs.exists_beacon (k := k) (by rw [ht]; rfl)
  exact ⟨_, State.step_tick ht hb rfl⟩

theorem State.Inv.completes_interpret (hs : s.Inv) (ht : s.turn = .interpret k) : Completes (step s) := by
  obtain ⟨b, hb⟩ := hs.exists_beacon (k := k) (by rw [ht]; rfl)
  obtain ⟨v, hv⟩ := Beacon.fetch_of_atByte s.mem ((hs.beaconOk hb).1 ht)
  exact ⟨_, State.step_byte ht hb hv rfl⟩

/-! ## Between operations -/

theorem State.onBeacon_faultless {f : Beacon → Host.Outcome State Fault Refusal} (hf : ∀ b, Faultless (f b)) (i : Nat) :
    Faultless (s.onBeacon i f) := by
  unfold State.onBeacon
  split
  · exact hf _
  · exact .refused _

theorem State.realHandle_faultless {f : Handle → Host.Outcome State Fault Refusal} (hf : ∀ h, Faultless (f h)) :
    ∀ h, Faultless (s.realHandle h f)
  | none => .refused _
  | some h => .ite (hf h) (.refused _)

theorem State.install_faultless (i : Nat) (b : Beacon) (h : Handle) (r : Option Reply) :
    Faultless (s.install i b h r) := .ite (.refused _) (.next _)

theorem State.hostWrite_faultless (h : Handle) (pos : Nat) (v : Byte) : Faultless (s.hostWrite h pos v) :=
  .ite (.refused _) (.ite (.refused _) (.ite (.refused _) (.next _)))

theorem State.hostEncode_faultless (h : Handle) (cap : Nat) (text : List Byte) (e : Sensors) :
    Faultless (s.hostEncode h cap text e) :=
  .ite (.refused _) (.ite (.refused _) (.ite (.refused _) (.next _)))

/-- No operation of the host faults, in whatever state it is performed. -/
theorem State.perform_faultless (s : State) : ∀ e, Faultless (s.perform e)
  | .cycle | .reset | .getLastEncodeError | .encodeChar _ => .next _
  | .isDone i => State.onBeacon_faultless (fun _ => .next _) i
  | .setEnabled i _ => State.onBeacon_faultless (fun _ => .next _) i
  | .setNextMessage i h =>
    State.onBeacon_faultless (fun b => State.realHandle_faultless (fun h => State.install_faultless i b h _) h) i
  | .handoff i h =>
    State.onBeacon_faultless
      (fun b => State.realHandle_faultless (fun h => .ite (State.install_faultless i b h _) (.next _)) h) i
  | .writeByte h pos v => State.hostWrite_faultless h pos v
  | .encodeMessage h cap text e => State.hostEncode_faultless h cap text e

/-- `cycle` and `reset` are never refused. -/
theorem State.perform_refused {e : Event} {r : Refusal} (h : s.perform e = .refused r) : e ≠ .cycle ∧ e ≠ .reset := by
  constructor <;>
  · rintro rfl
    cases h

/-- Settles O57, by whose turn it is: only the host's turn needs no invariant, and only there a call can be refused. -/
theorem noFaultUnderInvariant : Obligations.NoFaultUnderInvariant := by
  intro s inv
  cases ht : s.turn with
  | host =>
    cases he : s.events with
    | nil =>
      have begins : Completes (step s) := ⟨_, State.step_idle ht he⟩
      exact ⟨begins.faultless, fun r h => absurd h (begins.ne_refused r)⟩
    | cons e es =>
      rw [State.step_event ht he]
      exact ⟨State.perform_faultless _ e, fun r h => ⟨rfl, e, es, rfl, State.perform_refused h⟩⟩
  | tick k =>
    have ticks := inv.completes_tick ht
    exact ⟨ticks.faultless, fun r h => absurd h (ticks.ne_refused r)⟩
  | interpret k =>
    have interprets := inv.completes_interpret ht
    exact ⟨interprets.faultless, fun r h => absurd h (interprets.ne_refused r)⟩

end Sys2Proof.Machine
end

section
/-! O45, O46, O55. The reset state (70_reset_and_hazards.md R371, R373). -/

namespace Sys2Proof.Machine

/-- Settles O45: each of the two views is read off `Beacon.reset`. -/
theorem resetState : Obligations.ResetState := by
  intro p
  refine ⟨List.length_replicate, fun k hk => ⟨?_, Bool.or_true _, rfl⟩⟩
  exact List.getElem?_replicate_of_lt hk

/-- Settles O46: the step performs `State.assertReset`, which leaves no loan that settling could have kept. -/
theorem resetFromAnyState : Obligations.ResetFromAnyState :=
  fun _ _ ht he => State.step_event ht he

/-- Settles O55: every transmitter is settled at reset, and message memory is empty. -/
theorem invariantAtReset : Obligations.InvariantAtReset := by
  intro p wf
  refine (State.inv_iff_of_host rfl).mpr ⟨wf, List.length_replicate, rfl, List.forall_mem_nil _, fun b hb => ?_⟩
  obtain rfl := List.eq_of_mem_replicate hb
  exact Beacon.settled_reset

end Sys2Proof.Machine
end

section
/-! O47. Quiet transmitters (70_reset_and_hazards.md R372): what a step does to an array in which nobody has a message
and none is handed over. -/

namespace Sys2Proof.Machine

variable {s t : State} {p : Params} {k : Nat} {b : Beacon}

/-- Idle with nothing pending. -/
def Beacon.Quiet (b : Beacon) : Prop := b.idle = true ∧ b.next = none

/-- The carrier off and power mode 0. -/
def Beacon.Silent (b : Beacon) : Prop := b.key = false ∧ b.pwr = 0#2

/-- The event gives a transmitter a message. -/
def Event.handsOver : Event → Prop
  | .setNextMessage _ _ | .handoff _ _ => True
  | .cycle | .isDone _ | .setEnabled _ _ | .writeByte _ _ _ | .encodeMessage _ _ _ _ | .getLastEncodeError
  | .encodeChar _ | .reset => False

theorem Beacon.Quiet.disable (quiet : b.Quiet) (p : Params) : (b.disable p).Quiet :=
  have ⟨_, nothing⟩ := quiet
  ⟨rfl, Beacon.disable_next_of_none p nothing⟩

/-! ## Inside a cycle -/

/-- The tick of a quiet transmitter ends before the interpret phase and changes nothing, enabled or not (42 R241,
R242). -/
theorem Beacon.Quiet.tickPhases (quiet : b.Quiet) (p : Params) : b.tickPhases p = (b, false) := by
  obtain ⟨idle, nothing⟩ := quiet
  cases en : b.enabled with
  | false => exact Beacon.tickPhases_disabled p en
  | true => exact Beacon.tickPhases_idle p en idle nothing

/-- A tick in a quiet array only passes the turn on. -/
theorem State.step_tick_quiet (ht : s.turn = .tick k) (quiet : ∀ b ∈ s.beacons, b.Quiet) (h : step s = .next t) :
    t = { s with turn := s.turnAfter k } := by
  obtain ⟨b, hb, rfl⟩ := State.step_tick_next ht h
  rw [(quiet b (List.mem_of_getElem? hb)).tickPhases, set_getElem?_self hb]
  rfl

/-! ## Between operations -/

/-- An operation of the host leaves the turn as it is, but for the call of `cycle()`. -/
theorem State.perform_turn {e : Event} (h : s.perform e = .next t) :
    t.turn = s.turn ∨ e = .cycle ∧ t.turn = s.beginCycle.turn := by
  cases e <;> simp only [State.perform] at h
  case cycle =>
    obtain rfl := Host.Outcome.next.inj h
    exact .inr ⟨rfl, rfl⟩
  case setNextMessage =>
    obtain ⟨b, -, h⟩ := State.onBeacon_next h
    obtain ⟨m, -, -, h⟩ := State.realHandle_next h
    obtain ⟨-, rfl⟩ := State.install_next h
    exact .inl rfl
  case handoff =>
    obtain ⟨b, -, h⟩ := State.onBeacon_next h
    obtain ⟨m, -, -, h⟩ := State.realHandle_next h
    split at h
    · obtain ⟨-, rfl⟩ := State.install_next h
      exact .inl rfl
    · obtain rfl := Host.Outcome.next.inj h
      exact .inl rfl
  case writeByte =>
    obtain ⟨-, -, -, rfl⟩ := State.hostWrite_next h
    exact .inl rfl
  case encodeMessage =>
    obtain ⟨-, -, -, -, rfl⟩ := State.hostEncode_next h
    exact .inl rfl
  case isDone | setEnabled =>
    obtain ⟨b, -, h⟩ := State.onBeacon_next h
    obtain rfl := Host.Outcome.next.inj h
    exact .inl rfl
  case getLastEncodeError | encodeChar | reset =>
    obtain rfl := Host.Outcome.next.inj h
    exact .inl rfl

theorem State.beginCycle_turn_ne_interpret (s : State) (k : Nat) : s.beginCycle.turn ≠ .interpret k := by
  rw [State.beginCycle_turn]
  split <;> simp

/-- From between operations no step goes straight to an interpret phase. -/
theorem State.step_host_turn_ne_interpret (ht : s.turn = .host) (h : step s = .next t) (k : Nat) :
    t.turn ≠ .interpret k := by
  rcases State.step_host_next ht h with ⟨-, rfl⟩ | ⟨e, es, -, h⟩
  · exact s.beginCycle_turn_ne_interpret k
  · rcases State.perform_turn h with same | ⟨-, begins⟩
    · rw [same, State.takeEvent_turn, ht]
      simp
    · rw [begins]
      exact (s.takeEvent es).beginCycle_turn_ne_interpret k

/-- What holds of every transmitter between operations, and is kept by an enable, a disable and reset, is kept by every
step that hands no message over. -/
theorem State.step_host_keeps {P : Beacon → Prop} (ht : s.turn = .host) (h : step s = .next t)
    (noHandOver : ∀ e es, s.events = e :: es → ¬ e.handsOver) (enable : ∀ b, P b → P b.enable)
    (disable : ∀ b, P b → P (b.disable s.params)) (reset : P (Beacon.reset s.params)) (all : ∀ b ∈ s.beacons, P b) :
    ∀ b ∈ t.beacons, P b := by
  intro b' hb'
  obtain ⟨k, hk⟩ := List.mem_iff_getElem?.mp hb'
  have inside : k < s.beacons.length := State.step_length h ▸ (List.getElem?_eq_some_iff.mp hk).1
  have was := all _ (List.getElem_mem inside)
  rcases State.step_beacon h (List.getElem?_eq_getElem inside) hk with rfl | ⟨tick, -⟩ | ⟨interpret, -⟩ |
    ⟨-, ⟨m, es, given, -⟩ | ⟨es, -, rfl⟩ | ⟨es, -, rfl⟩ | ⟨es, -, rfl⟩⟩
  · exact was
  · cases ht.symm.trans tick
  · cases ht.symm.trans interpret
  · rcases given with he | he <;> exact absurd trivial (noHandOver _ es he)
  · exact enable _ was
  · exact disable _ was
  · exact reset

/-- A step between operations that performs none of the host's begins a cycle, which touches no transmitter. -/
theorem State.step_cycle_beacons (ht : s.turn = .host) (h : step s = .next t)
    (he : s.events = [] ∨ ∃ es, s.events = .cycle :: es) : t.beacons = s.beacons := by
  rcases he with he | ⟨es, he⟩
  · obtain rfl := Host.Outcome.next.inj ((State.step_idle ht he).symm.trans h)
    rfl
  · obtain rfl := Host.Outcome.next.inj ((State.step_event ht he).symm.trans h)
    rfl

/-- Settles O47: at reset by `Beacon.reset`, and for a step by whose turn it is. -/
theorem quietUntilHandOver : Obligations.QuietUntilHandOver := by
  refine ⟨fun p => ⟨rfl, fun b hb => ?_⟩, fun s t outside quiet noHandOver h => ?_⟩
  · obtain rfl := List.eq_of_mem_replicate hb
    exact ⟨rfl, rfl, rfl, rfl⟩
  · cases ht : s.turn with
    | host =>
      have none_given : ∀ e es, s.events = e :: es → ¬ e.handsOver := by
        rintro (_ | ⟨i, o⟩ | _ | _ | ⟨i, o⟩ | _ | _ | _ | _ | _) es he given
        case setNextMessage => exact (noHandOver ht i o es).1 he
        case handoff => exact (noHandOver ht i o es).2 he
        all_goals exact given
      refine ⟨State.step_host_turn_ne_interpret ht h, ?_, fun silent => ?_,
        fun idle => State.step_cycle_beacons ht h (idle rfl)⟩
      · exact State.step_host_keeps (P := Beacon.Quiet) ht h none_given (fun _ was => was)
          (fun _ was => was.disable s.params) ⟨rfl, rfl⟩ quiet
      · exact State.step_host_keeps (P := Beacon.Silent) ht h none_given (fun _ was => was)
          (fun _ _ => ⟨rfl, rfl⟩) ⟨rfl, rfl⟩ silent
    | tick k =>
      obtain rfl := State.step_tick_quiet ht quiet h
      exact ⟨s.turnAfter_ne_interpret k, quiet, fun silent => silent, fun _ => rfl⟩
    | interpret k => exact absurd ht (outside k)

end Sys2Proof.Machine
end

section
/-! O32. The duration of a message (70_reset_and_hazards.md R393): from one byte of it to the next, then from the first
to any other, and at last the byte that ends it. -/

namespace Sys2Proof.Machine

variable {p : Params} {m : Memory} {h : Handle} {b b' c : Beacon} {v : Byte} {n n' pos : Nat}

/-- The transmitter is sending message `h`. -/
def Beacon.Sends (h : Handle) (b : Beacon) : Prop := b.idle = false ∧ b.cur = some h

/-- The transmitter is about to interpret, inside its tick, the byte at offset `pos` of message `h` (42 R245). -/
structure Beacon.AtOffset (p : Params) (h : Handle) (pos : Nat) (b : Beacon) : Prop where
  atByte : b.atByte p
  cur : b.cur = some h
  bytePos : b.bytePos = pos

/-- From the tick that interprets at `b`, the transmitter sends message `h` until, `n` ticks later, it interprets
at `b'`. -/
structure Beacon.Reaches (p : Params) (m : Memory) (h : Handle) (n : Nat) (b b' : Beacon) : Prop where
  sends : ∀ u < n, (Beacon.afterTicks p m u (b.interpretLoop p m (p.msgCapacity + 1))).Sends h
  arrives : Beacon.afterTicks p m n (b.interpretLoop p m (p.msgCapacity + 1)) =
    b'.interpretLoop p m (p.msgCapacity + 1)

theorem Beacon.Reaches.refl (b : Beacon) : b.Reaches p m h 0 b := ⟨fun _ hu => absurd hu (Nat.not_lt_zero _), rfl⟩

theorem Beacon.Reaches.trans (first : b.Reaches p m h n b') (second : b'.Reaches p m h n' c) :
    b.Reaches p m h (n + n') c := by
  refine ⟨fun u hu => ?_, ?_⟩
  · rcases Nat.lt_or_ge u n with early | late
    · exact first.sends u early
    · obtain ⟨w, rfl⟩ := Nat.exists_eq_add_of_le late
      rw [Beacon.afterTicks_add, first.arrives]
      exact second.sends w (by omega)
  · rw [Beacon.afterTicks_add, first.arrives, second.arrives]

theorem Beacon.AtOffset.fetch (here : b.AtOffset p h pos) (m : Memory) : b.fetch p m = .ok (msgRead p m h pos) := by
  obtain ⟨⟨-, -, -, curOk, -⟩, -⟩ := Beacon.atByte_iff.mp here.atByte
  rw [Beacon.fetch_of_cur m here.cur (curOk h here.cur), here.bytePos]

theorem Beacon.AtOffset.sends (here : b.AtOffset p h pos) : b.Sends h :=
  ⟨(Beacon.atByte_iff.mp here.atByte).1.idle, here.cur⟩

/-- The transmitter at the byte after one that kept it for some ticks: the byte lay inside the buffer, since past it the
fetch gives END (20 R66). -/
theorem Beacon.AtOffset.next (here : b.AtOffset p h pos) (m : Memory) (goesOn : endsMessage (msgRead p m h pos) = false)
    (on : Bool) (rest : Byte) :
    ({ b with key := on, shreg := rest, bytePos := b.bytePos + 1 } : Beacon).AtOffset p h (pos + 1) := by
  have inside : b.bytePos < p.msgCapacity :=
    Beacon.fetch_inside (here.fetch m) fun isEnd => by rw [isEnd] at goesOn; cases goesOn
  obtain ⟨⟨en, idle, cur, curOk, nextOk⟩, bit, still, -⟩ := Beacon.atByte_iff.mp here.atByte
  exact ⟨Beacon.atByte_iff.mpr ⟨⟨en, idle, cur, curOk, nextOk⟩, bit, still, inside⟩, here.cur,
    congrArg (· + 1) here.bytePos⟩

/-! ## The ticks of a byte -/

/-- A byte whose rule continues costs nothing: `SETPWR` (42 R250) and the zero-duration holds (decision D9). -/
theorem byteTicks_of_cont (hv : v ≤ 0x03#8 ∨ v = 0x10#8 ∨ v = 0x20#8) : byteTicks v = 0 := by
  revert v
  decide

theorem byteTicks_of_isSymbol (hv : isSymbol v = true) : byteTicks v = symbolTicks (unpack v) := if_pos hv

theorem byteTicks_of_hold (hv : (0x11#8 ≤ v ∧ v ≤ 0x1F#8) ∨ (0x21#8 ≤ v ∧ v ≤ 0x2F#8)) :
    byteTicks v = 16 * (v.toNat % 16) := by
  have control : ¬ isSymbol v = true := by
    rw [isSymbol, decide_eq_true_eq]
    bv_omega
  rw [byteTicks, if_neg control, if_pos (by bv_omega)]

/-- A hold or the inter-word space keeps the transmitter for its ticks, whatever the carrier. -/
theorem Beacon.AtOffset.reaches_of_startHold (hp : p.boundaryExtraTick = false) (here : b.AtOffset p h pos) {on : Bool}
    (rule : b.byteRule p (msgRead p m h pos) = (b.startHold on (BitVec.ofNat 8 n), .ret)) (lo : 1 ≤ n) (hi : n < 256) :
    b.Reaches p m h n { b with key := on, bytePos := b.bytePos + 1 } := by
  obtain ⟨⟨en, idle, -⟩, -⟩ := Beacon.atByte_iff.mp here.atByte
  have start := Beacon.interpretLoop_ret (here.fetch m) rule p.msgCapacity
  have counted : ∀ u < n, Beacon.afterTicks p m u (b.interpretLoop p m (p.msgCapacity + 1)) =
      b.startHold on (BitVec.ofNat 8 (n - u)) := by
    intro u hu
    have left := Beacon.afterTicks_startHold (p := p) m en idle on (u := u) (left := n - u) (by omega) (by omega)
    rwa [Nat.add_sub_cancel' hu.le, ← start] at left
  refine ⟨fun u hu => ?_, ?_⟩
  · rw [counted u hu]
    exact here.sends
  · obtain ⟨n, rfl⟩ := Nat.exists_eq_add_of_le' lo
    rw [Beacon.afterTicks_add, counted n (Nat.lt_succ_self n), Nat.add_sub_cancel_left]
    exact Beacon.tick_startHold_one m hp here.atByte on

/-- A timed hold keeps the transmitter for 16 ticks a unit of its duration code (42 R261). -/
theorem Beacon.AtOffset.reaches_of_hold (hp : p.boundaryExtraTick = false) (here : b.AtOffset p h pos)
    (hv : (0x11#8 ≤ msgRead p m h pos ∧ msgRead p m h pos ≤ 0x1F#8) ∨
      (0x21#8 ≤ msgRead p m h pos ∧ msgRead p m h pos ≤ 0x2F#8)) :
    b.Reaches p m h (byteTicks (msgRead p m h pos))
      { b with key := decide (msgRead p m h pos ≤ 0x1F#8), bytePos := b.bytePos + 1 } := by
  rw [byteTicks_of_hold hv]
  exact here.reaches_of_startHold hp (Beacon.byteRule_hold b hv) (by bv_omega) (by omega)

/-- The inter-word space keeps the transmitter for 5 ticks (42 R254). -/
theorem Beacon.AtOffset.reaches_of_space (hp : p.boundaryExtraTick = false) (here : b.AtOffset p h pos)
    (hv : msgRead p m h pos = 0x7E#8)
    (rule : b.byteRule p (msgRead p m h pos) = (b.startHold false spaceTicks, .ret)) :
    b.Reaches p m h (byteTicks (msgRead p m h pos)) { b with key := false, bytePos := b.bytePos + 1 } := by
  rw [hv, show byteTicks 0x7E#8 = 5 from rfl]
  exact here.reaches_of_startHold hp rule (by decide) (by decide)

theorem Beacon.emits.sends {on : Bool} (e : b.emits on c) (was : b.Sends h) : c.Sends h := by
  rw [e]
  exact was

/-- A Symbol keeps the transmitter for its duration (43 R287). -/
theorem Beacon.AtOffset.reaches_of_symbol (hp : p.boundaryExtraTick = false) (here : b.AtOffset p h pos)
    (hv : isSymbol (msgRead p m h pos) = true) :
    b.Reaches p m h (byteTicks (msgRead p m h pos)) { b with key := false, shreg := 0#8, bytePos := b.bytePos + 1 } := by
  obtain ⟨inside, after⟩ := Beacon.afterTicks_symbol hp here.atByte (here.fetch m) hv
  rw [byteTicks_of_isSymbol hv]
  exact ⟨fun u hu => (inside u hu).sends here.sends, after⟩

/-- A byte whose rule continues is followed by the next byte in the same tick (42 R245): the loop has fuel enough for
it, since the byte before was read inside the buffer. -/
theorem Beacon.AtOffset.reaches_of_cont (here : b.AtOffset p h pos)
    (rule : b.byteRule p (msgRead p m h pos) = (b', .cont)) :
    b'.AtOffset p h (pos + 1) ∧ b.Reaches p m h (byteTicks (msgRead p m h pos)) b' := by
  have effect := rule ▸ byteEffect_byteRule (msgRead p m h pos) p b
  obtain ⟨range, cur, moved⟩ := effect.of_cont
  have atByte : b'.atByte p := effect.okAfter here.atByte (here.fetch m)
  obtain ⟨-, -, -, inside⟩ := Beacon.atByte_iff.mp atByte
  rw [byteTicks_of_cont range]
  refine ⟨⟨atByte, cur.trans here.cur, moved.trans (congrArg (· + 1) here.bytePos)⟩,
    fun _ hu => absurd hu (Nat.not_lt_zero _), ?_⟩
  exact (Beacon.interpretLoop_cont (here.fetch m) rule _).trans
    (Beacon.interpretLoop_add_fuel inside (by omega) 1).symm

/-- Every byte that does not end the message is followed by the next one after its ticks (42 R261, 43 R287). -/
theorem Beacon.AtOffset.reaches_next (hp : p.boundaryExtraTick = false) (here : b.AtOffset p h pos)
    (goesOn : endsMessage (msgRead p m h pos) = false) :
    ∃ b', b'.AtOffset p h (pos + 1) ∧ b.Reaches p m h (byteTicks (msgRead p m h pos)) b' := by
  have effect := byteEffect_byteRule (msgRead p m h pos) p b
  rcases rule : b.byteRule p (msgRead p m h pos) with ⟨c, _ | _⟩
  · rw [rule] at effect
    cases effect with
    | holdOn d hd lo hi => exact ⟨_, here.next m goesOn _ b.shreg, here.reaches_of_hold hp (.inl ⟨lo, hi⟩)⟩
    | holdOff d hd lo hi => exact ⟨_, here.next m goesOn _ b.shreg, here.reaches_of_hold hp (.inr ⟨lo, hi⟩)⟩
    | space hv => exact ⟨_, here.next m goesOn false b.shreg, here.reaches_of_space hp hv rule⟩
    | symbol bits hn hv => exact ⟨_, here.next m goesOn false 0#8, here.reaches_of_symbol hp hv⟩
    | ends hv => exact absurd (goesOn.symm.trans hv) (by decide)
  · exact ⟨c, here.reaches_of_cont rule⟩

/-! ## The message -/

/-- The ticks from the first byte of a message to the byte at offset `n` (70 R393). -/
def ticksBefore (p : Params) (m : Memory) (h : Handle) (n : Nat) : Nat :=
  ((List.range n).map fun j => byteTicks (msgRead p m h j)).sum

theorem ticksBefore_succ (p : Params) (m : Memory) (h : Handle) (n : Nat) :
    ticksBefore p m h (n + 1) = ticksBefore p m h n + byteTicks (msgRead p m h n) := by
  simp [ticksBefore, List.range_succ]

/-- From the first byte of a message to any byte that none before it has ended. -/
theorem Beacon.AtOffset.reaches_offset (hp : p.boundaryExtraTick = false) (here : b.AtOffset p h 0)
    (goesOn : ∀ j < n, endsMessage (msgRead p m h j) = false) :
    ∃ b', b'.AtOffset p h n ∧ b.Reaches p m h (ticksBefore p m h n) b' := by
  induction n with
  | zero => exact ⟨b, here, .refl b⟩
  | succ n ih =>
    obtain ⟨c, there, sofar⟩ := ih fun j hj => goesOn j (Nat.lt_succ_of_lt hj)
    obtain ⟨b', next, onward⟩ := there.reaches_next hp (goesOn n (Nat.lt_succ_self n))
    rw [ticksBefore_succ]
    exact ⟨b', next, sofar.trans onward⟩

/-- The byte that ends the message ends it in the tick that interprets it. -/
theorem Beacon.AtOffset.interpretLoop_ends (here : b.AtOffset p h pos) (fin : endsMessage (msgRead p m h pos) = true) :
    b.interpretLoop p m (p.msgCapacity + 1) = b.endReaction p :=
  Beacon.interpretLoop_ret (here.fetch m) (Beacon.byteRule_ends b fin) _

/-- A pending message is adopted, and its first byte interpreted, at tick 1 (decision D6). -/
theorem Beacon.afterTicks_adopt (m : Memory) (en : b.enabled = true) (idle : b.idle = true) (pending : b.next = some h)
    (still : b.counting = false) (u : Nat) :
    Beacon.afterTicks p m (1 + u) b =
      Beacon.afterTicks p m u ((b.adopt h).interpretLoop p m (p.msgCapacity + 1)) := by
  rw [Nat.add_comm, Beacon.afterTicks, Beacon.tick_of_byte m (Beacon.tickPhases_adopt p en idle pending still)]

theorem Beacon.atOffset_adopt (en : b.enabled = true) (still : b.counting = false) (hh : h < p.nBuffers) :
    (b.adopt h).AtOffset p h 0 :=
  ⟨Beacon.atByte_iff.mpr ⟨⟨en, rfl, by simp, slotOk_some hh, slotOk_none⟩, rfl, still, Nat.zero_le _⟩, rfl, rfl⟩

/-- Settles O32: adoption, the ticks of the bytes before offset `n`, and the end-of-message reaction to the byte there. -/
theorem messageDuration : Obligations.MessageDuration := by
  intro p m b h n hp en idle still pending hh _ goesOn fin
  obtain ⟨c, there, ⟨sends, arrives⟩⟩ :=
    (Beacon.atOffset_adopt en still hh).reaches_offset hp goesOn
  have adopted := Beacon.afterTicks_adopt (p := p) m en idle pending still
  have last : Beacon.afterTicks p m (1 + ticksBefore p m h n) b = c.endReaction p :=
    (adopted _).trans (arrives.trans (there.interpretLoop_ends fin))
  refine ⟨fun u lo hu => ?_, congrArg Beacon.idle last, congrArg Beacon.cur last, congrArg Beacon.key last,
    (congrArg Beacon.bytePos last).trans there.bytePos⟩
  obtain ⟨w, rfl⟩ := Nat.exists_eq_add_of_le lo
  rw [adopted]
  exact sends w (Nat.lt_of_add_lt_add_left hu)

end Sys2Proof.Machine
end
